-- ==== Sys2Proof/Word.lean ====
section
/-! DEFINITION. The word types of the block and their plainest arithmetic (spec/00_scope.md R5). -/

namespace Sys2Proof

/-- A register value or write operand: `REG_W` = 32 bits (R4, R44). -/
abbrev Word := BitVec 32

/-- A byte of a FIFO, the shifter or the wire. -/
abbrev Byte := BitVec 8

/-- A byte offset inside the register window, 12 bits (R60). -/
abbrev Offset := BitVec 12

/-- A transaction word `T` = dir, offset, wdata: 45 bits (R60). -/
abbrev Transaction := BitVec 45

/-- `zext_32`: a value widened to 32 bits with zeros (R5). -/
abbrev zext32 {n : Nat} (v : BitVec n) : Word := v.setWidth 32

/-- `trunc_N`: `v mod 2^N`, kept as a register value (R5). -/
def trunc (n : Nat) (v : Word) : Word := BitVec.ofNat 32 (v.toNat % 2 ^ n)

/-- A single bit as a number, 0 or 1. -/
def bit (b : Bool) : Word := if b then 1#32 else 0#32

end Sys2Proof
end

