-- ==== Sys2Proof/Config.lean ====
section
/-! DEFINITION. What an implementation fixes (the layout parameters of spec/00_scope.md R4, R8, R37: each a
configuration field) and the free values (log 2, log 3). The defaults of the layout stand in Decode.lean. -/

namespace Sys2Proof

/-! ## Free values: no body, so no proof can see what they are -/

/-- `draw`: the n-th unconstrained value (R5, R37). A `draw(N)` is its low `N` bits. -/
opaque Config.freeWord : Nat → Word

/-- The agent that moves when the schedule of State is empty (R37, R51): 0 the bus master, 1 TX_LOAD,
2 TX_DONE, 3 RX_ARRIVE, 4 MODEM_CHANGE, 5 RESET. -/
opaque Config.freeAgent : Nat → Fin 6

/-- The byte that arrives when a free turn is RX_ARRIVE (R37: chosen by the environment). -/
opaque Config.freeByte : Nat → Byte

/-! ## Layout parameters (R4, R62, R66 to R71): log 4 -/

/-- The offsets `OFF_*` of the eleven registers (R62). -/
structure Offsets where
  dr : Offset
  fr : Offset
  ibrd : Offset
  fbrd : Offset
  lcrh : Offset
  cr : Offset
  ifls : Offset
  imsc : Offset
  ris : Offset
  mis : Offset
  icr : Offset
  deriving DecidableEq, Repr

/-- The bit positions of FR (R67). -/
structure FrBits where
  cts : Nat
  dsr : Nat
  dcd : Nat
  busy : Nat
  rxfe : Nat
  txff : Nat
  rxff : Nat
  txfe : Nat
  ri : Nat
  deriving DecidableEq, Repr

/-- The positions of the error bits of DR, above the byte in [7:0] (R66). -/
structure DrBits where
  fe : Nat
  pe : Nat
  be : Nat
  oe : Nat
  deriving DecidableEq, Repr

/-- The bit positions of LCR_H; WLEN is the two-bit field from `wlen` up, `wlen8` its code for 8-bit words
(R69). -/
structure LcrhBits where
  brk : Nat
  pen : Nat
  eps : Nat
  stp2 : Nat
  fen : Nat
  wlen : Nat
  sps : Nat
  wlen8 : BitVec 2
  deriving DecidableEq, Repr

/-- The bit positions of CR (R70). -/
structure CrBits where
  uarten : Nat
  siren : Nat
  sirlp : Nat
  lbe : Nat
  txe : Nat
  rxe : Nat
  dtr : Nat
  rts : Nat
  out1 : Nat
  out2 : Nat
  rtsEn : Nat
  ctsEn : Nat
  deriving DecidableEq, Repr

/-- The one bit assignment of IMSC, RIS, MIS and ICR, and the two three-bit fields of IFLS (R71). -/
structure InterruptBits where
  ri : Nat
  cts : Nat
  dcd : Nat
  dsr : Nat
  rx : Nat
  tx : Nat
  rt : Nat
  fe : Nat
  pe : Nat
  be : Nat
  oe : Nat
  txLevel : Nat
  rxLevel : Nat
  deriving DecidableEq, Repr

/-- The effective widths of the cells, and the widths of the calculator's inputs (R4, R12, R136). The width
`REG_W` = 32 of a register is the source's own and is the type `Word`. -/
structure Widths where
  ibrd : Nat
  fbrd : Nat
  lcrh : Nat
  cr : Nat
  ifls : Nat
  imsc : Nat
  clk : Nat
  baud : Nat
  deriving DecidableEq, Repr

/-- The numeric layout. No rule fixes a number of it; claims are for every layout that is well-formed. -/
structure Layout where
  /-- `BLOCK_SIZE`: bytes decoded by the block (R40). -/
  blockSize : Nat
  off : Offsets
  dr : DrBits
  fr : FrBits
  lcrh : LcrhBits
  cr : CrBits
  int : InterruptBits
  width : Widths
  deriving DecidableEq, Repr

end Sys2Proof
end

