-- ==== Sys2Proof/Syntax.lean ====
section
/-! DEFINITION. The instructions: one constructor per row of spec/opcode_table.json. The block has no
instruction set (R1); its "instructions" are the operations of its agents (spec/INDEX.md): register
reads and writes (R60), the driver's pseudo-operations (R77), the hardware steps (R76). -/

namespace Sys2Proof

/-- The operations of the agents, one constructor per row of the opcode table. -/
inductive Instr where
  /-- `RD_DR`: read the Data register (R90). -/
  | rdDr
  /-- `WR_DR`: write the Data register (R91). -/
  | wrDr (v : Word)
  /-- `RD_FR`: read the Flag register (R92). -/
  | rdFr
  /-- `WR_FR`: bus write to the Flag register's offset (R93). -/
  | wrFr (v : Word)
  /-- `RD_IBRD` (R94). -/
  | rdIbrd
  /-- `WR_IBRD` (R95). -/
  | wrIbrd (v : Word)
  /-- `RD_FBRD` (R96). -/
  | rdFbrd
  /-- `WR_FBRD` (R97). -/
  | wrFbrd (v : Word)
  /-- `RD_LCRH` (R98). -/
  | rdLcrh
  /-- `WR_LCRH` (R99). -/
  | wrLcrh (v : Word)
  /-- `RD_CR` (R100). -/
  | rdCr
  /-- `WR_CR` (R101). -/
  | wrCr (v : Word)
  /-- `RD_IFLS` (R102). -/
  | rdIfls
  /-- `WR_IFLS` (R103). -/
  | wrIfls (v : Word)
  /-- `RD_IMSC` (R104). -/
  | rdImsc
  /-- `WR_IMSC` (R105). -/
  | wrImsc (v : Word)
  /-- `RD_RIS` (R106). -/
  | rdRis
  /-- `WR_RIS` (R109). -/
  | wrRis (v : Word)
  /-- `RD_MIS` (R107). -/
  | rdMis
  /-- `WR_MIS` (R109). -/
  | wrMis (v : Word)
  /-- `RD_ICR` (R110). -/
  | rdIcr
  /-- `WR_ICR` (R108). -/
  | wrIcr (v : Word)
  /-- `RD_RESERVED`: word-aligned read at an unlisted offset (R111). -/
  | rdReserved (off : Offset)
  /-- `WR_RESERVED`: word-aligned write at an unlisted offset (R112). -/
  | wrReserved (off : Offset) (v : Word)
  /-- `BAUDDIV c, b`: clock in Hz and baud rate, unsigned `CLK_W` and `BAUD_W` bits (R131, R136). -/
  | bauddiv (c b : Nat)
  /-- `INIT c, b` (R140). -/
  | init (c b : Nat)
  /-- `WRITE_BYTE b` (R150). -/
  | writeByte (b : Byte)
  /-- `READ_BYTE` (R151). -/
  | readByte
  /-- `WRITE_BYTES s` (R152). -/
  | writeBytes (s : List Byte)
  /-- `WRITE_STR s` (R153). -/
  | writeStr (s : List Char)
  /-- `BIND base` (R212). -/
  | bind (base : Nat)
  /-- `TX_LOAD` (R170). -/
  | txLoad
  /-- `TX_DONE` (R171). -/
  | txDone
  /-- `RX_ARRIVE d` (R172). -/
  | rxArrive (d : Byte)
  /-- `MODEM_CHANGE` (R175). -/
  | modemChange
  /-- `RESET` (R210). -/
  | reset
  deriving DecidableEq, Repr

end Sys2Proof
end

