-- ==== Sys2Proof/WellFormed.lean ====
section
/-! DEFINITION. Which layouts are layouts, and which terms of the syntax stand for an operation of the table
(R62, R64, R41, R136). -/

namespace Sys2Proof

/-! ## Layouts (R4, R62, R66 to R70) -/

/-- `off mod 4 = 0` (R45). -/
def wordAligned (off : Offset) : Bool := off &&& 3#12 == 0#12

/-- The eleven offsets the register map lists, in its order (R62). -/
def Offsets.list (o : Offsets) : List Offset :=
  [o.dr, o.fr, o.ibrd, o.fbrd, o.lcrh, o.cr, o.ifls, o.imsc, o.ris, o.mis, o.icr]

/-- Positions that name different bits of a field of `width` bits, none below `low`. -/
def distinctBits (low width : Nat) (positions : List Nat) : Bool :=
  decide positions.Nodup && positions.all fun p => decide (low ≤ p) && decide (p < width)

/-- The positions of FR (R67). -/
def FrBits.list (f : FrBits) : List Nat :=
  [f.cts, f.dsr, f.dcd, f.busy, f.rxfe, f.txff, f.rxff, f.txfe, f.ri]

/-- The positions of the error bits of DR (R66). -/
def DrBits.list (d : DrBits) : List Nat := [d.fe, d.pe, d.be, d.oe]

/-- The positions of LCR_H, both of WLEN among them (R69). -/
def LcrhBits.list (l : LcrhBits) : List Nat :=
  [l.brk, l.pen, l.eps, l.stp2, l.fen, l.wlen, l.wlen + 1, l.sps]

/-- The positions of CR (R70). -/
def CrBits.list (c : CrBits) : List Nat :=
  [c.uarten, c.siren, c.sirlp, c.lbe, c.txe, c.rxe, c.dtr, c.rts, c.out1, c.out2, c.rtsEn, c.ctsEn]

/-- The positions of the interrupt registers (R71). -/
def InterruptBits.list (i : InterruptBits) : List Nat :=
  [i.ri, i.cts, i.dcd, i.dsr, i.rx, i.tx, i.rt, i.fe, i.pe, i.be, i.oe]

/-- The positions of the two fields of IFLS (R71). -/
def InterruptBits.levels (i : InterruptBits) : List Nat :=
  [i.txLevel, i.txLevel + 1, i.txLevel + 2, i.rxLevel, i.rxLevel + 1, i.rxLevel + 2]

/-- The offsets stand at different aligned places of a window that 12 offset bits can address (R60, R62). -/
def Layout.offsetsWf (L : Layout) : Bool :=
  decide (L.blockSize ≤ 0x1000) && decide L.off.list.Nodup &&
    L.off.list.all fun o => wordAligned o && decide (o.toNat < L.blockSize)

/-- The effective widths fit a register (R12). -/
def Layout.widthsWf (L : Layout) : Bool :=
  [L.width.ibrd, L.width.fbrd, L.width.lcrh, L.width.cr, L.width.ifls, L.width.imsc].all fun w =>
    decide (w ≤ 32)

/-- A layout is one when its numbers name different offsets and different bits inside their registers. -/
def Layout.wf (L : Layout) : Bool :=
  L.offsetsWf && L.widthsWf && distinctBits 8 32 L.dr.list && distinctBits 0 32 L.fr.list &&
    distinctBits 0 L.width.lcrh L.lcrh.list && distinctBits 0 L.width.cr L.cr.list &&
    distinctBits 0 L.width.imsc L.int.list && distinctBits 0 L.width.ifls L.int.levels

/-! ## Operations -/

/-- A reserved offset: word-aligned, in the window and not listed (R64). -/
def Layout.reserved (L : Layout) (off : Offset) : Bool :=
  wordAligned off && decide (off.toNat < L.blockSize) && !L.off.list.contains off

/-- A term is well-formed when its operands are ones the table's row admits: a reserved access is at a
reserved offset (R64), a bound base is a multiple of 4 (R41, R212), a clock and a baud rate fit their widths
(R136). A zero baud rate is well-formed: nothing checks it before the operation runs (R135). -/
def Instr.wf (L : Layout) : Instr → Bool
  | .rdReserved off => L.reserved off
  | .wrReserved off _ => L.reserved off
  | .bind base => base % 4 == 0
  | .bauddiv c b | .init c b => decide (c < 2 ^ L.width.clk) && decide (b < 2 ^ L.width.baud)
  | .rdDr | .wrDr _ | .rdFr | .wrFr _ | .rdIbrd | .wrIbrd _ | .rdFbrd | .wrFbrd _ => true
  | .rdLcrh | .wrLcrh _ | .rdCr | .wrCr _ | .rdIfls | .wrIfls _ | .rdImsc | .wrImsc _ => true
  | .rdRis | .wrRis _ | .rdMis | .wrMis _ | .rdIcr | .wrIcr _ => true
  | .writeByte _ | .readByte | .writeBytes _ | .writeStr _ => true
  | .txLoad | .txDone | .rxArrive _ | .modemChange | .reset => true

end Sys2Proof
end

