-- ==== Sys2Proof/Decode.lean ====
section
/-! DEFINITION. The default layout (spec/00_scope.md R4), and transaction words (spec/30_encoding.md R60, R61,
R62): the decoder, total on words, and after it the encoder. Pseudo-operations and hardware steps have no word
(opcode_table.json). -/

namespace Sys2Proof

/-! ## The default layout: the values the spec adopts, UNVERIFIED (log 4) -/

def Offsets.default : Offsets where
  dr := 0x000#12
  fr := 0x018#12
  ibrd := 0x024#12
  fbrd := 0x028#12
  lcrh := 0x02C#12
  cr := 0x030#12
  ifls := 0x034#12
  imsc := 0x038#12
  ris := 0x03C#12
  mis := 0x040#12
  icr := 0x044#12

def FrBits.default : FrBits where
  cts := 0
  dsr := 1
  dcd := 2
  busy := 3
  rxfe := 4
  txff := 5
  rxff := 6
  txfe := 7
  ri := 8

def DrBits.default : DrBits where
  fe := 8
  pe := 9
  be := 10
  oe := 11

def LcrhBits.default : LcrhBits where
  brk := 0
  pen := 1
  eps := 2
  stp2 := 3
  fen := 4
  wlen := 5
  sps := 7
  wlen8 := 0b11#2

def CrBits.default : CrBits where
  uarten := 0
  siren := 1
  sirlp := 2
  lbe := 7
  txe := 8
  rxe := 9
  dtr := 10
  rts := 11
  out1 := 12
  out2 := 13
  rtsEn := 14
  ctsEn := 15

def InterruptBits.default : InterruptBits where
  ri := 0
  cts := 1
  dcd := 2
  dsr := 3
  rx := 4
  tx := 5
  rt := 6
  fe := 7
  pe := 8
  be := 9
  oe := 10
  txLevel := 0
  rxLevel := 3

def Widths.default : Widths where
  ibrd := 16
  fbrd := 6
  lcrh := 8
  cr := 16
  ifls := 6
  imsc := 11
  clk := 32
  baud := 32

/-- The default column of R4 with the positions of R66 to R71. -/
def Layout.default : Layout where
  blockSize := 0x1000
  off := Offsets.default
  dr := DrBits.default
  fr := FrBits.default
  lcrh := LcrhBits.default
  cr := CrBits.default
  int := InterruptBits.default
  width := Widths.default

/-! ## The decoder -/

/-- Why a word is no transaction of the block. -/
inductive DecodeError where
  /-- `off mod 4 ≠ 0`: R61 sends it to R45, `V_BAD_ACCESS`. -/
  | misalignedOffset
  /-- `off` is not below `BLOCK_SIZE`: R60 admits no such word (log 11). -/
  | outsideWindow
  deriving DecidableEq, Repr

/-- The eleven registers of the map (R12, R62). -/
inductive Reg where
  | dr | fr | ibrd | fbrd | lcrh | cr | ifls | imsc | ris | mis | icr
  deriving DecidableEq, Repr

/-- `T[44]`: false for `F-RD`, true for `F-WR` (R60). -/
def dirOf (t : Transaction) : Bool := t.getLsbD 44

/-- `T[43:32]`, the register offset (R60). -/
def offsetOf (t : Transaction) : Offset := t.extractLsb' 32 12

/-- `T[31:0]`, the write operand (R60). -/
def wdataOf (t : Transaction) : Word := t.extractLsb' 0 32

/-- The offset of each register (R62). -/
def Reg.offset (L : Layout) : Reg → Offset
  | .dr => L.off.dr
  | .fr => L.off.fr
  | .ibrd => L.off.ibrd
  | .fbrd => L.off.fbrd
  | .lcrh => L.off.lcrh
  | .cr => L.off.cr
  | .ifls => L.off.ifls
  | .imsc => L.off.imsc
  | .ris => L.off.ris
  | .mis => L.off.mis
  | .icr => L.off.icr

/-- The registers in the order of the map (R62). -/
def Reg.all : List Reg := [.dr, .fr, .ibrd, .fbrd, .lcrh, .cr, .ifls, .imsc, .ris, .mis, .icr]

/-- The row of the map whose offset is `off` (R61). -/
def Reg.at? (L : Layout) (off : Offset) : Option Reg := Reg.all.find? fun r => r.offset L == off

/-- The read operation of a register (R62, column "read operation"). -/
def Reg.readInstr : Reg → Instr
  | .dr => .rdDr
  | .fr => .rdFr
  | .ibrd => .rdIbrd
  | .fbrd => .rdFbrd
  | .lcrh => .rdLcrh
  | .cr => .rdCr
  | .ifls => .rdIfls
  | .imsc => .rdImsc
  | .ris => .rdRis
  | .mis => .rdMis
  | .icr => .rdIcr

/-- The write operation of a register (R62, column "write operation"). -/
def Reg.writeInstr : Reg → Word → Instr
  | .dr => .wrDr
  | .fr => .wrFr
  | .ibrd => .wrIbrd
  | .fbrd => .wrFbrd
  | .lcrh => .wrLcrh
  | .cr => .wrCr
  | .ifls => .wrIfls
  | .imsc => .wrImsc
  | .ris => .wrRis
  | .mis => .wrMis
  | .icr => .wrIcr

/-- The operation a direction, an offset and an operand select: by direction and offset alone (R61);
an aligned offset of the window that is not listed is reserved (R64). -/
def selectInstr (L : Layout) (write : Bool) (off : Offset) (v : Word) : Except DecodeError Instr :=
  if wordAligned off then
    if off.toNat < L.blockSize then
      match Reg.at? L off, write with
      | some r, false => .ok r.readInstr
      | some r, true => .ok (r.writeInstr v)
      | none, false => .ok (.rdReserved off)
      | none, true => .ok (.wrReserved off v)
    else .error .outsideWindow
  else .error .misalignedOffset

/-- The decoder: every 45-bit word is an operation or is rejected by name. -/
def decode (L : Layout) (t : Transaction) : Except DecodeError Instr :=
  selectInstr L (dirOf t) (offsetOf t) (wdataOf t)

/-- The host's entry: the instruction whose bits are `w`, bit 0 of `w` being `T[0]`, in the default layout.
The word is the spec's notation and is not stored as bytes anywhere (R60), so there is no byte order to apply
(R46); the bits above `T[44]` must be 0. `nbits`, the row's length in whole bytes, adds nothing: every bit
above it is 0 in `w` (log 23). -/
def decodeTableWord (_nbits w : Nat) : Option Instr :=
  if w < 2 ^ 45 then
    match decode Layout.default (BitVec.ofNat 45 w) with
    | .ok i => some i
    | .error _ => none
  else none

/-! ## The encoder -/

/-- `T = dir << 44 | off << 32 | wdata` (R60). -/
def transaction (write : Bool) (off : Offset) (v : Word) : Transaction :=
  BitVec.ofBool write ++ off ++ v

/-- Direction, offset and operand of a register access; none for an operation that is no bus
transaction. A read's operand is written as 0 (R60). -/
def Instr.busForm (L : Layout) : Instr → Option (Bool × Offset × Word)
  | .rdDr => some (false, L.off.dr, 0#32)
  | .wrDr v => some (true, L.off.dr, v)
  | .rdFr => some (false, L.off.fr, 0#32)
  | .wrFr v => some (true, L.off.fr, v)
  | .rdIbrd => some (false, L.off.ibrd, 0#32)
  | .wrIbrd v => some (true, L.off.ibrd, v)
  | .rdFbrd => some (false, L.off.fbrd, 0#32)
  | .wrFbrd v => some (true, L.off.fbrd, v)
  | .rdLcrh => some (false, L.off.lcrh, 0#32)
  | .wrLcrh v => some (true, L.off.lcrh, v)
  | .rdCr => some (false, L.off.cr, 0#32)
  | .wrCr v => some (true, L.off.cr, v)
  | .rdIfls => some (false, L.off.ifls, 0#32)
  | .wrIfls v => some (true, L.off.ifls, v)
  | .rdImsc => some (false, L.off.imsc, 0#32)
  | .wrImsc v => some (true, L.off.imsc, v)
  | .rdRis => some (false, L.off.ris, 0#32)
  | .wrRis v => some (true, L.off.ris, v)
  | .rdMis => some (false, L.off.mis, 0#32)
  | .wrMis v => some (true, L.off.mis, v)
  | .rdIcr => some (false, L.off.icr, 0#32)
  | .wrIcr v => some (true, L.off.icr, v)
  | .rdReserved off => some (false, off, 0#32)
  | .wrReserved off v => some (true, off, v)
  | .bauddiv _ _ | .init _ _ | .writeByte _ | .readByte | .writeBytes _ | .writeStr _ => none
  | .bind _ | .txLoad | .txDone | .rxArrive _ | .modemChange | .reset => none

/-- The transaction word of a register access (R60, R62); none where the table says the row is not a
bus transaction. -/
def encode (L : Layout) (i : Instr) : Option Transaction :=
  match i.busForm L with
  | some (write, off, v) => some (transaction write off v)
  | none => none

end Sys2Proof
end

