-- ==== Sys2Proof/Machine/State.lean ====
section
/-! DEFINITION. The state of the machine as plain data (spec/10_state.md), the reasons a step can stop
(spec/60_exceptions.md R191), and the state after reset (R38). -/

namespace Sys2Proof.Machine

/-- The reasons the machine itself stops: none. The block raises no exception and has no fault mechanism
(R190, R198); spec/93_implementation_defined.md: "This block never uses `fault`". -/
inductive Fault
  deriving DecidableEq, Repr

/-- The conditions to which the spec gives no meaning, with the codes of R191. Each is safe: the model
stops where a real part would go on. -/
inductive Refusal where
  /-- The instruction has no meaning in this model. Raised by no arm: every row has its meaning. Safe. -/
  | notModelled (mnemonic : String)
  /-- `V_BAD_BASE` (1): BASE is not a valid, aligned, exclusive mapping (R41). Raised by every register
  access, of a word, of an access by address and of a driver operation. Safe. -/
  | badBase
  /-- `V_BAD_ACCESS` (2): an access that is not 4 bytes or not word-aligned (R45). Raised by the fetch. Safe. -/
  | badAccess
  /-- `V_SHARED_ACCESS` (3): two masters interleave on the block (R52, R199). Raised by the fetch of
  another master's access, by the fetch of another context's entry while an operation runs, and by a driver
  operation that meets a different running one. Safe. -/
  | sharedAccess
  /-- `V_RESERVED_OFFSET` (4): an access at an offset the map does not list (R111, R112). Safe. -/
  | reservedOffset
  /-- `V_TX_OVERFLOW` (5): `WR DR` with the transmit FIFO full (R91). Safe. -/
  | txOverflow
  /-- `V_FEN_CHANGE_NONEMPTY` (6): FEN toggled with bytes queued (R99). Safe. -/
  | fenChangeNonempty
  /-- `V_RECONFIG_IN_FLIGHT` (7): divisor or framing changed with a character in the shifter (R99). Safe. -/
  | reconfigInFlight
  /-- `V_ZERO_BAUD` (8): `BAUDDIV` or `INIT` with a baud rate of 0 (R135). Safe. -/
  | zeroBaud
  /-- `V_LINE_CONFIG` (9): the line side ran in a configuration the source does not describe (R176). Safe. -/
  | lineConfig
  /-- An access whose offset is not below `BLOCK_SIZE`: outside the register window, where the spec gives the
  bus nothing (R40, R42) and no name among the nine of R191. Raised by the fetch. Safe (log 11). -/
  | outsideWindow
  deriving DecidableEq, Repr

/-- The divisor the baud generator uses, `baud_latch` (R27). -/
structure BaudLatch where
  ibrd : Word
  fbrd : Word
  deriving DecidableEq, Repr

/-- What `BAUDDIV` returns: `(IBRD_value, FBRD_value)` as natural numbers (R130, R136). -/
structure Divisor where
  int : Nat
  frac : Nat
  deriving DecidableEq, Repr

/-- The tie rule of the rounding (R132). -/
inductive TieRule where
  | halfUp
  | halfEven
  deriving DecidableEq, Repr

/-- `RESET_STATE`: what the block holds after reset (R4, R38). -/
structure ResetState where
  ibrd : Word
  fbrd : Word
  lcrh : Word
  cr : Word
  ifls : Word
  imsc : Word
  baudLatch : BaudLatch
  txFifo : List Byte
  rxFifo : List Byte
  txShift : Option Byte
  deriving DecidableEq, Repr

/-- The default of `RESET_STATE`, the table of R38 (log 5). -/
def ResetState.default : ResetState where
  ibrd := 0x0000#32
  fbrd := 0x00#32
  lcrh := 0x00#32
  cr := 0x0300#32
  ifls := 0x12#32
  imsc := 0x000#32
  baudLatch := ⟨0#32, 0#32⟩
  txFifo := []
  rxFifo := []
  txShift := none

/-- The parameters of the step relation that no step changes, whose every value the claims cover (R4, R37;
log 4, log 15). -/
structure Params where
  /-- `OFF_*`, `BLOCK_SIZE`, the bit positions and the widths. -/
  layout : Layout
  /-- `TX_DEPTH`, at least 1 (R28). -/
  txDepth : Nat
  /-- `RX_DEPTH`, at least 1 (R28). -/
  rxDepth : Nat
  /-- The tie rule of `BAUDDIV` (R132). -/
  tie : TieRule
  /-- `ENCODE`, as the characters whose encoding is not their UTF-8 one, with that encoding (R153). -/
  encodeTable : List (Char × List Byte)
  /-- `RESET_STATE` (R38). -/
  resetState : ResetState
  deriving DecidableEq, Repr

/-- The default column of R4. -/
def Params.default : Params where
  layout := Layout.default
  txDepth := 16
  rxDepth := 16
  tie := .halfUp
  encodeTable := []
  resetState := ResetState.default

/-- The phases of `INIT` before DONE (R11): the register that is written next. -/
inductive InitPhase where
  | I0
  | I1
  | I2
  | I3
  deriving DecidableEq, Repr

/-- The phases of a transfer before DONE (R11): poll FR, act on DR. -/
inductive XferPhase where
  | POLL
  | ACT
  deriving DecidableEq, Repr

/-- A running operation of the bus master: its operands, its index and its phase (R11, R36). Phase DONE
is the absence of a running operation (log 13). -/
inductive Call where
  | init (c b : Nat) (ph : InitPhase)
  | writeByte (b : Byte) (ph : XferPhase)
  | readByte (ph : XferPhase)
  | writeBytes (s : List Byte) (i : Nat) (ph : XferPhase)
  | writeStr (s : List Char) (i : Nat) (ph : XferPhase)
  deriving DecidableEq, Repr

/-- The pseudo-operations a program of the bus master may call (R77). -/
inductive DriverOp where
  | bauddiv (c b : Nat)
  | init (c b : Nat)
  | writeByte (b : Byte)
  | readByte
  | writeBytes (s : List Byte)
  | writeStr (s : List Char)
  | bind (base : Nat)
  deriving DecidableEq, Repr

/-- Who issues an access: the owner of the driver instance, or another master (R52). -/
inductive Master where
  | owner
  | other
  deriving DecidableEq, Repr

/-- A bus access as the master issues it: `MemRead(BASE + off, size)` or `MemWrite(BASE + off, size, v)`
(R44, R45). -/
structure Access where
  master : Master
  write : Bool
  off : Nat
  size : Nat
  data : Word
  deriving DecidableEq, Repr

/-- What an entry of a program asks for: a transaction word (R60), an access by address (R44), or a call of the
driver (R77). -/
inductive Request where
  | word (t : Transaction)
  | access (a : Access)
  | call (op : DriverOp)
  deriving DecidableEq, Repr

/-- One entry of the bus master's program (R50). BASE is a parameter of every bus operation (R41): `some b`
passes `b`, `none` passes the base of the newest live driver instance, the one `BIND` fixed (R77). -/
structure Item where
  base : Option Nat
  request : Request
  deriving DecidableEq, Repr

/-- Which agent moves (R6, R51). `context` is another context of the software, a thread or an interrupt
handler, that issues an entry of its own (R199). -/
inductive Turn where
  | master
  | txLoad
  | txDone
  | rxArrive (d : Byte)
  | modemChange
  | reset
  | context (item : Item)
  deriving DecidableEq, Repr

/-- The whole state. -/
structure State where
  /-- IBRD: a cell of `width.ibrd` effective bits, 16 by default; the bits above are 0 (R15, R23). -/
  ibrd : Word
  /-- FBRD: a cell of `width.fbrd` effective bits, 6 by default; the bits above are 0 (R16, R23). -/
  fbrd : Word
  /-- LCR_H: a cell of `width.lcrh` effective bits, 8 by default; the bits above are 0 (R17, R23). -/
  lcrh : Word
  /-- CR: a cell of `width.cr` effective bits, 16 by default; the bits above are 0 (R18, R23). -/
  cr : Word
  /-- IFLS: a cell of `width.ifls` effective bits, 6 by default; the bits above are 0 (R19, R23). -/
  ifls : Word
  /-- IMSC: a cell of `width.imsc` effective bits, 11 by default; the bits above are 0 (R20, R23). -/
  imsc : Word
  /-- The divisor latch (R27). -/
  baudLatch : BaudLatch
  /-- The transmit FIFO or holding register, oldest first (R24). -/
  txFifo : List Byte
  /-- The receive FIFO or holding register, oldest first (R25). -/
  rxFifo : List Byte
  /-- The transmit shifter (R26). -/
  txShift : Option Byte
  /-- The bytes that left the transmitter, oldest first (R34). -/
  wireOut : List Byte
  /-- The running operation of the bus master (R11, R36). -/
  call : Option Call
  /-- The value the last `F-RD` returned (R60, R36; log 8). -/
  readData : Word
  /-- The pair the last `BAUDDIV` returned (R131, R36; log 8). -/
  divisor : Divisor
  /-- What the `READ_BYTE` calls returned, in order (R223; log 8). -/
  returned : List Byte
  /-- The bases of the live driver instances, newest first (R41, R212; log 10). -/
  bindings : List Nat
  /-- BASE, the argument of the operation that runs (R41; log 10). -/
  base : Nat
  /-- Where the platform maps the block (R42; log 10). -/
  blockBase : Nat
  /-- The parameters of R4. -/
  params : Params
  /-- What the bus master does next, in program order (R50; log 1). -/
  program : List Item
  /-- Which agents move next (R51; log 2): the model's own field. -/
  schedule : List Turn
  /-- How many free values were used (R5; log 3): the model's own field. -/
  draws : Nat
  deriving DecidableEq, Repr

/-- The state right after reset: the block as R38 says; the rest as log 1, 2, 3, 8, 10, 15 say. -/
def State.reset : State where
  ibrd := ResetState.default.ibrd
  fbrd := ResetState.default.fbrd
  lcrh := ResetState.default.lcrh
  cr := ResetState.default.cr
  ifls := ResetState.default.ifls
  imsc := ResetState.default.imsc
  baudLatch := ResetState.default.baudLatch
  txFifo := ResetState.default.txFifo
  rxFifo := ResetState.default.rxFifo
  txShift := ResetState.default.txShift
  wireOut := []
  call := none
  readData := 0#32
  divisor := ⟨0, 0⟩
  returned := []
  bindings := []
  base := 0
  blockBase := 0
  params := Params.default
  program := []
  schedule := []
  draws := 0

/-- How every operation ends: a next state, a fault or a refusal. -/
abbrev Result := Host.Outcome State Fault Refusal

end Sys2Proof.Machine
end

