-- ==== Sys2Proof/Machine/Operands.lean ====
section
/-! DEFINITION. The fields of the registers (spec/30_encoding.md R66 to R71), how the operands of the
driver's writes are assembled (R72 to R75), and the text encoding (R153). -/

namespace Sys2Proof.Machine

/-! ## LCR_H (R69) -/

def lcrhBrk (L : Layout) (v : Word) : Bool := v.getLsbD L.lcrh.brk
def lcrhPen (L : Layout) (v : Word) : Bool := v.getLsbD L.lcrh.pen
def lcrhEps (L : Layout) (v : Word) : Bool := v.getLsbD L.lcrh.eps
def lcrhStp2 (L : Layout) (v : Word) : Bool := v.getLsbD L.lcrh.stp2
/-- FEN: 1 = FIFOs enabled, 0 = holding registers. -/
def lcrhFen (L : Layout) (v : Word) : Bool := v.getLsbD L.lcrh.fen
/-- WLEN: by default 0b00 = 5, 0b01 = 6, 0b10 = 7, 0b11 = 8 bits. -/
def lcrhWlen (L : Layout) (v : Word) : BitVec 2 := v.extractLsb' L.lcrh.wlen 2
def lcrhSps (L : Layout) (v : Word) : Bool := v.getLsbD L.lcrh.sps

/-! ## CR (R70) -/

def crUarten (L : Layout) (v : Word) : Bool := v.getLsbD L.cr.uarten
def crSiren (L : Layout) (v : Word) : Bool := v.getLsbD L.cr.siren
def crSirlp (L : Layout) (v : Word) : Bool := v.getLsbD L.cr.sirlp
def crLbe (L : Layout) (v : Word) : Bool := v.getLsbD L.cr.lbe
def crTxe (L : Layout) (v : Word) : Bool := v.getLsbD L.cr.txe
def crRxe (L : Layout) (v : Word) : Bool := v.getLsbD L.cr.rxe
def crDtr (L : Layout) (v : Word) : Bool := v.getLsbD L.cr.dtr
def crRts (L : Layout) (v : Word) : Bool := v.getLsbD L.cr.rts
def crOut1 (L : Layout) (v : Word) : Bool := v.getLsbD L.cr.out1
def crOut2 (L : Layout) (v : Word) : Bool := v.getLsbD L.cr.out2
def crRtsEn (L : Layout) (v : Word) : Bool := v.getLsbD L.cr.rtsEn
def crCtsEn (L : Layout) (v : Word) : Bool := v.getLsbD L.cr.ctsEn

/-- The bits of CR the source names: UARTEN, TXE, RXE. -/
def crNamedMask (L : Layout) : Word :=
  (1#32 <<< L.cr.uarten) ||| (1#32 <<< L.cr.txe) ||| (1#32 <<< L.cr.rxe)

/-- Every bit of CR other than UARTEN, TXE, RXE: `CR & 0xFCFE` by default (R176). -/
def crOtherBits (L : Layout) (v : Word) : Word := trunc L.width.cr v &&& ~~~crNamedMask L

/-! ## Interrupt registers (R71); no rule reads these fields -/

def iflsTxLevel (L : Layout) (v : Word) : BitVec 3 := v.extractLsb' L.int.txLevel 3
def iflsRxLevel (L : Layout) (v : Word) : BitVec 3 := v.extractLsb' L.int.rxLevel 3
/-- One bit of IMSC, RIS, MIS or ICR, by its position (a field of `Layout.int`). -/
def interruptBit (v : Word) (position : Nat) : Bool := v.getLsbD position

/-! ## Write operands: the effective low bits of the word written (R5, R23) -/

/-- `v[7:0]` of a word written to DR: bits [31:8] are ignored (R91). -/
def dataOperand (v : Word) : Byte := v.setWidth 8
/-- `v[15:0]` of a word written to IBRD (R95). -/
def ibrdOperand (L : Layout) (v : Word) : Word := trunc L.width.ibrd v
/-- `v[5:0]` of a word written to FBRD (R97). -/
def fbrdOperand (L : Layout) (v : Word) : Word := trunc L.width.fbrd v
/-- `v[7:0]` of a word written to LCR_H (R99). -/
def lcrhOperand (L : Layout) (v : Word) : Word := trunc L.width.lcrh v
/-- `v[15:0]` of a word written to CR (R101). -/
def crOperand (L : Layout) (v : Word) : Word := trunc L.width.cr v
/-- `v[5:0]` of a word written to IFLS (R103). -/
def iflsOperand (L : Layout) (v : Word) : Word := trunc L.width.ifls v
/-- `v[10:0]` of a word written to IMSC (R105). -/
def imscOperand (L : Layout) (v : Word) : Word := trunc L.width.imsc v

/-- `LCRH_INIT`: WLEN = 8-bit code, FEN = 1, every other bit 0 (R72). -/
def lcrhInit (L : Layout) : Word :=
  (zext32 L.lcrh.wlen8 <<< L.lcrh.wlen) ||| (1#32 <<< L.lcrh.fen)

/-- `CR_INIT`: UARTEN = TXE = RXE = 1, every other bit 0 (R73). -/
def crInit (L : Layout) : Word := crNamedMask L

/-! ## The word a read of DR returns (R66, R90) -/

/-- The two parts of a DR read: the byte, and the error bits (bit 0 FE, 1 PE, 2 BE, 3 OE). -/
structure DataReg where
  data : Byte
  errors : BitVec 4
  deriving DecidableEq, Repr

/-- `zext_32(d) | (errors << 8)`, each error bit at its position (R66, R90). -/
def DataReg.word (L : Layout) (d : DataReg) : Word :=
  zext32 d.data ||| (bit (d.errors.getLsbD 0) <<< L.dr.fe) ||| (bit (d.errors.getLsbD 1) <<< L.dr.pe)
    ||| (bit (d.errors.getLsbD 2) <<< L.dr.be) ||| (bit (d.errors.getLsbD 3) <<< L.dr.oe)

/-! ## Text (R153): `ENCODE`, UTF-8 but for the characters of a table (log 16) -/

/-- The byte of value `n mod 256`. -/
def byteOf (n : Nat) : Byte := BitVec.ofNat 8 n

/-- The UTF-8 bytes of one character, most significant first. -/
def utf8Char (c : Char) : List Byte :=
  let n := c.toNat
  if n < 0x80 then [byteOf n]
  else if n < 0x800 then [byteOf (0xC0 + n / 0x40), byteOf (0x80 + n % 0x40)]
  else if n < 0x10000 then
    [byteOf (0xE0 + n / 0x1000), byteOf (0x80 + n / 0x40 % 0x40), byteOf (0x80 + n % 0x40)]
  else
    [byteOf (0xF0 + n / 0x40000), byteOf (0x80 + n / 0x1000 % 0x40), byteOf (0x80 + n / 0x40 % 0x40),
     byteOf (0x80 + n % 0x40)]

/-- The encoding of one character: the table's, or UTF-8. -/
def encodeChar (table : List (Char × List Byte)) (c : Char) : List Byte :=
  match table.lookup c with
  | some bytes => bytes
  | none => utf8Char c

/-- `ENCODE(s)`: the encodings of the characters in order, none translated, added or dropped. -/
def encodeText (table : List (Char × List Byte)) (s : List Char) : List Byte := s.flatMap (encodeChar table)

/-- `ENCODE(s)` with the parameter of the machine. -/
def Params.encode (p : Params) (s : List Char) : List Byte := encodeText p.encodeTable s

end Sys2Proof.Machine
end

