-- ==== Sys2Proof/Machine/Flags.lean ====
section
/-! DEFINITION. The capacities (spec/10_state.md R28) and the flags of FR as functions of the state
(R14, R29 to R33). -/

namespace Sys2Proof.Machine

/-! ## Capacities (R28) -/

/-- `tx_cap`: TX_DEPTH with FIFOs enabled, 1 without. -/
def State.txCap (s : State) : Nat := if lcrhFen s.params.layout s.lcrh then s.params.txDepth else 1

/-- `rx_cap`: RX_DEPTH with FIFOs enabled, 1 without. -/
def State.rxCap (s : State) : Nat := if lcrhFen s.params.layout s.lcrh then s.params.rxDepth else 1

/-! ## Derived flags -/

/-- TXFF (R29): 1 exactly when `len(tx_fifo) = tx_cap`. -/
def State.txff (s : State) : Bool := s.txFifo.length == s.txCap
/-- RXFE (R30): 1 exactly when `len(rx_fifo) = 0`. -/
def State.rxfe (s : State) : Bool := s.rxFifo.length == 0
/-- BUSY (R31): 1 exactly when `len(tx_fifo) > 0` or `tx_shift ≠ none`. -/
def State.busy (s : State) : Bool := decide (0 < s.txFifo.length) || s.txShift.isSome
/-- TXFE (R32): 1 exactly when `len(tx_fifo) = 0`. -/
def State.txfe (s : State) : Bool := s.txFifo.length == 0
/-- RXFF (R32): 1 exactly when `len(rx_fifo) = rx_cap`. -/
def State.rxff (s : State) : Bool := s.rxFifo.length == s.rxCap

/-! ## Free values (R5; log 3) -/

/-- `draw(N)`: the `j`-th free value of the step that starts at `s`, as `N` bits. -/
def State.draw (s : State) (n j : Nat) : BitVec n := (Config.freeWord (s.draws + j)).setWidth n

/-- `k` free values were used. -/
def State.spend (s : State) (k : Nat) : State := { s with draws := s.draws + k }

/-! ## The Flag register (R67, R92) -/

/-- The nine bits of FR as one read sees them. -/
structure FlagReg where
  cts : Bool
  dsr : Bool
  dcd : Bool
  busy : Bool
  rxfe : Bool
  txff : Bool
  rxff : Bool
  txfe : Bool
  ri : Bool
  deriving DecidableEq, Repr

/-- The modem inputs are a fresh `draw(1)` each at every read (R33). -/
def State.modem (s : State) (j : Nat) : Bool := (s.draw 1 j).getLsbD 0

/-- FR at this instant: computed from the state (R14, R92). -/
def State.flagReg (s : State) : FlagReg where
  cts := s.modem 0
  dsr := s.modem 1
  dcd := s.modem 2
  busy := s.busy
  rxfe := s.rxfe
  txff := s.txff
  rxff := s.rxff
  txfe := s.txfe
  ri := s.modem 3

/-- FR as a word, with the positions of R67. -/
def FlagReg.word (L : Layout) (f : FlagReg) : Word :=
  (bit f.cts <<< L.fr.cts) ||| (bit f.dsr <<< L.fr.dsr) ||| (bit f.dcd <<< L.fr.dcd)
    ||| (bit f.busy <<< L.fr.busy) ||| (bit f.rxfe <<< L.fr.rxfe)
    ||| (bit f.txff <<< L.fr.txff) ||| (bit f.rxff <<< L.fr.rxff)
    ||| (bit f.txfe <<< L.fr.txfe) ||| (bit f.ri <<< L.fr.ri)

end Sys2Proof.Machine
end

