-- ==== Sys2Proof/Machine/Ops.lean ====
section
/-! DEFINITION. The named operations over the registers and queues, shared by the meanings. The block has
no memory but its registers (spec/20_memory.md) and takes no exception (R190, R198), so there is neither
a memory operation nor an exception entry here. -/

namespace Sys2Proof.Machine

/-- Goes on with `k` when `r` answers a next state. -/
def Result.andThen (r : Result) (k : State → Result) : Result :=
  match r with
  | .next s => k s
  | .fault f => .fault f
  | .refused v => .refused v

/-- The bus master receives `v` as the value of an `F-RD` (R60). -/
def State.returning (s : State) (v : Word) : State := { s with readData := v }

/-- The running operation becomes `c` (R11). -/
def State.setCall (s : State) (c : Option Call) : State := { s with call := c }

/-! ## The Data register (R13, R90, R91) -/

/-- What a read of DR sees: the oldest byte with unspecified error bits, or with an empty FIFO twelve
unspecified bits (R90). -/
def State.dataReg (s : State) : DataReg :=
  match s.rxFifo with
  | d :: _ => ⟨d, s.draw 4 0⟩
  | [] => ⟨(s.draw 12 0).setWidth 8, (s.draw 12 0).extractLsb' 8 4⟩

/-- A read of DR: pops the oldest byte if there is one (R90). -/
def State.readDr (s : State) : State :=
  { s with rxFifo := s.rxFifo.tail, readData := s.dataReg.word s.params.layout, draws := s.draws + 1 }

/-- A write of DR: pushes the byte, or has no meaning when the FIFO is full (R91). -/
def State.writeDr (s : State) (v : Word) : Result :=
  if s.txFifo.length < s.txCap then .next { s with txFifo := s.txFifo ++ [dataOperand v] }
  else .refused .txOverflow

/-! ## The Flag register (R92) -/

/-- A read of FR: no side effect on the block; four free values are used (R92). -/
def State.readFr (s : State) : State :=
  (s.returning (s.flagReg.word s.params.layout)).spend 4

/-! ## The interrupt status registers (R106, R107) -/

/-- `draw(11)`: a free value in the effective bits of RIS and MIS. -/
def State.interruptDraw (s : State) : Word := trunc s.params.layout.width.imsc (s.draw 32 0)

/-! ## Storage cells (R95, R97, R101) -/

def State.writeIbrd (s : State) (v : Word) : State := { s with ibrd := ibrdOperand s.params.layout v }
def State.writeFbrd (s : State) (v : Word) : State := { s with fbrd := fbrdOperand s.params.layout v }
def State.writeCr (s : State) (v : Word) : State := { s with cr := crOperand s.params.layout v }
def State.writeIfls (s : State) (v : Word) : State := { s with ifls := iflsOperand s.params.layout v }
def State.writeImsc (s : State) (v : Word) : State := { s with imsc := imscOperand s.params.layout v }

/-! ## The Line Control register (R99) -/

/-- The divisor a write of LCR_H loads: what the two cells hold (R27). -/
def State.cellDivisor (s : State) : BaudLatch := ⟨s.ibrd, s.fbrd⟩

/-- FEN would change while bytes are queued (R99, first test). -/
def State.fenChangeBlocked (s : State) (new : Word) : Bool :=
  (lcrhFen s.params.layout new != lcrhFen s.params.layout s.lcrh)
    && (decide (0 < s.txFifo.length) || decide (0 < s.rxFifo.length))

/-- The write changes LCR_H or the latch (R99, `changes`). -/
def State.lineControlChanges (s : State) (new : Word) : Bool :=
  (new != s.lcrh) || (s.cellDivisor != s.baudLatch)

/-- A write of LCR_H: two refusals in the order of the pseudocode, then the cell and the latch (R99). -/
def State.writeLcrh (s : State) (v : Word) : Result :=
  if s.fenChangeBlocked (lcrhOperand s.params.layout v) then .refused .fenChangeNonempty
  else if s.lineControlChanges (lcrhOperand s.params.layout v) && s.txShift.isSome then .refused .reconfigInFlight
  else .next { s with lcrh := lcrhOperand s.params.layout v, baudLatch := s.cellDivisor }

/-! ## BASE (R41, R212; log 10) -/

/-- BASE becomes the argument an entry passes: its own, or that of the newest live instance. -/
def State.setBase (s : State) (base : Option Nat) : State :=
  { s with base := base.getD (s.bindings.head?.getD s.base) }

/-- BASE is a valid, aligned, exclusive mapping of the block (R41 a, b, c): it is where the platform maps
the block, a multiple of 4, and at most one live binding stands there. -/
def State.baseOk (s : State) : Bool :=
  (s.base == s.blockBase) && (s.blockBase % 4 == 0) && decide (s.bindings.count s.base ≤ 1)

/-- An access through BASE: no meaning on a bad base (R41, `V_BAD_BASE`). -/
def State.withBase (s : State) (r : Result) : Result :=
  if s.baseOk then r else .refused .badBase

/-! ## The reset of the block (R210) -/

/-- `RESET_STATE` for everything R38 lists, the running operation abandoned; the bus master's own data,
the parameters and the model's fields stay (log 6, log 7). -/
def State.resetBlock (s : State) : State :=
  { s with
    ibrd := s.params.resetState.ibrd
    fbrd := s.params.resetState.fbrd
    lcrh := s.params.resetState.lcrh
    cr := s.params.resetState.cr
    ifls := s.params.resetState.ifls
    imsc := s.params.resetState.imsc
    baudLatch := s.params.resetState.baudLatch
    txFifo := s.params.resetState.txFifo
    rxFifo := s.params.resetState.rxFifo
    txShift := s.params.resetState.txShift
    wireOut := []
    call := none }

end Sys2Proof.Machine
end

