-- ==== Sys2Proof/Machine/BaudDivisor.lean ====
section
/-! DEFINITION. The baud-rate divisor calculator (spec/41_baud_divisor.md R130 to R138): a pure function
on natural numbers, and the operation that returns its result. -/

namespace Sys2Proof.Machine

/-- `8r / 2B` rounded to nearest, `round(64 r / (16 B))` (R131). An exact tie is a remainder of `B`:
half-up takes the upper neighbour, half-even the even one (R132). -/
def roundFraction (tie : TieRule) (r b : Nat) : Nat :=
  match tie with
  | .halfUp => (8 * r + b) / (2 * b)
  | .halfEven =>
    let low := 8 * r / (2 * b)
    if 8 * r % (2 * b) < b then low
    else if b < 8 * r % (2 * b) then low + 1
    else low + low % 2

/-- `BAUDDIV(C, B)` for `B ≥ 1` (R131): the integer part is the floor; the rounded fraction is masked to
6 bits and its carry is not propagated (R133). -/
def baudDivisor (tie : TieRule) (c b : Nat) : Divisor where
  int := c / (16 * b)
  frac := roundFraction tie (c % (16 * b)) b % 64

/-- The clock operand, an unsigned `CLK_W`-bit value (R136). -/
def Params.clock (p : Params) (c : Nat) : Nat := c % 2 ^ p.layout.width.clk

/-- The baud rate operand, an unsigned `BAUD_W`-bit value (R136). -/
def Params.baud (p : Params) (b : Nat) : Nat := b % 2 ^ p.layout.width.baud

/-- The divisor of two operands of their widths, under the machine's tie rule (R131, R132, R136). -/
def Params.divisor (p : Params) (c b : Nat) : Divisor := baudDivisor p.tie (p.clock c) (p.baud b)

/-- `BAUDDIV c, b`: no register is touched, no transaction issued; the pair is returned (R130, R131). A
zero baud rate has no meaning (R135). -/
def execBauddiv (c b : Nat) (s : State) : Result :=
  if s.params.baud b = 0 then .refused .zeroBaud else .next { s with divisor := s.params.divisor c b }

/-- The bit rate the latched divisor means, `C / (16 (ibrd + fbrd / 64))`, as numerator and denominator
(R138; no step reads it). -/
def bitRate (c : Nat) (l : BaudLatch) : Nat × Nat := (4 * c, 64 * l.ibrd.toNat + l.fbrd.toNat)

end Sys2Proof.Machine
end

