-- ==== Sys2Proof/Machine/Initialize.lean ====
section
/-! DEFINITION. The initialization sequence (spec/42_initialize.md R140 to R148): four register writes in
a fixed order, one a step, each through BASE. -/

namespace Sys2Proof.Machine

/-- `zext_32(IBRD_value)`, the operand of INIT's first write (R74); the register keeps its low bits (R136). -/
def Divisor.intOperand (d : Divisor) : Word := BitVec.ofNat 32 d.int

/-- `zext_32(FBRD_value)`, the operand of INIT's second write (R74). -/
def Divisor.fracOperand (d : Divisor) : Word := BitVec.ofNat 32 d.frac

/-- One phase of `INIT` (R140, R141): the write of that phase, then the next phase. After I3 the
operation is done. -/
def initPhase (c b : Nat) (ph : InitPhase) (s : State) : Result :=
  s.withBase <|
    match ph with
    | .I0 => .next ((s.writeIbrd (s.params.divisor c b).intOperand).setCall (some (.init c b .I1)))
    | .I1 => .next ((s.writeFbrd (s.params.divisor c b).fracOperand).setCall (some (.init c b .I2)))
    | .I2 => (s.writeLcrh (lcrhInit s.params.layout)).andThen fun t => .next (t.setCall (some (.init c b .I3)))
    | .I3 => .next ((s.writeCr (crInit s.params.layout)).setCall none)

/-- `INIT c, b` (R140). With no operation running the divisor is computed and phase I0 runs; with this
operation running its phase runs; with another one running two callers interleave (R52, R199). A zero
baud rate has no meaning, before any write (R135). -/
def execInit (c b : Nat) (s : State) : Result :=
  if s.params.baud b = 0 then .refused .zeroBaud
  else
    match s.call with
    | none => initPhase c b .I0 { s with divisor := s.params.divisor c b }
    | some (.init c' b' ph) => if c' = c ∧ b' = b then initPhase c b ph s else .refused .sharedAccess
    | some _ => .refused .sharedAccess

end Sys2Proof.Machine
end

