-- ==== Sys2Proof/Machine/LineSide.lean ====
section
/-! DEFINITION. The steps of the hardware agents on the line (spec/44_line_side.md R170 to R176). -/

namespace Sys2Proof.Machine

/-- The admitted line configurations (R176): word length 8, break off, every bit of CR other than UARTEN,
TXE, RXE clear, latched integer divisor at least 1. -/
def State.lineAdmitted (s : State) : Bool :=
  (lcrhWlen s.params.layout s.lcrh == s.params.layout.lcrh.wlen8) && !lcrhBrk s.params.layout s.lcrh
    && (crOtherBits s.params.layout s.cr == 0#32) && (s.baudLatch.ibrd != 0#32)

/-- The guard of `TX_LOAD` (R170). -/
def State.txLoadEnabled (s : State) : Bool :=
  crUarten s.params.layout s.cr && crTxe s.params.layout s.cr && s.txShift.isNone
    && decide (0 < s.txFifo.length)

/-- The receiver is enabled (R172, R174). -/
def State.rxEnabled (s : State) : Bool := crUarten s.params.layout s.cr && crRxe s.params.layout s.cr

/-- `TX_LOAD` (R170). Not enabled: nothing happens (log 9). -/
def execTxLoad (s : State) : Result :=
  if s.txLoadEnabled then
    if s.lineAdmitted then .next { s with txShift := s.txFifo.head?, txFifo := s.txFifo.tail }
    else .refused .lineConfig
  else .next s

/-- `TX_DONE` (R171): the enables are not in its guard. Not enabled: nothing happens (log 9). -/
def execTxDone (s : State) : Result :=
  match s.txShift with
  | some b => .next { s with wireOut := s.wireOut ++ [b], txShift := none }
  | none => .next s

/-- `RX_ARRIVE d` (R172): received when enabled and there is room; lost on overrun (R173) and while
disabled (R174). -/
def execRxArrive (d : Byte) (s : State) : Result :=
  if s.rxEnabled then
    if s.lineAdmitted then
      if s.rxFifo.length < s.rxCap then .next { s with rxFifo := s.rxFifo ++ [d] } else .next s
    else .refused .lineConfig
  else .next s

/-- `MODEM_CHANGE`: the identity, since the modem bits are draws (R175). -/
def execModemChange (s : State) : Result := .next s

end Sys2Proof.Machine
end

