-- ==== Sys2Proof/Machine/RegisterAccess.lean ====
section
/-! DEFINITION. The register access operations (spec/40_register_access.md R90 to R112): one meaning per
register and direction. Each is one indivisible step of the bus master (R47), through the BASE that is its
parameter (R41). A read of a cell returns all of it: its bits above the effective width are 0 (R23). -/

namespace Sys2Proof.Machine

/-! ## Data register -/

/-- `RD_DR` (R90). -/
def execRdDr (s : State) : Result := s.withBase (.next s.readDr)

/-- `WR_DR` (R91). -/
def execWrDr (v : Word) (s : State) : Result := s.withBase (s.writeDr v)

/-! ## Flag register -/

/-- `RD_FR` (R92). -/
def execRdFr (s : State) : Result := s.withBase (.next s.readFr)

/-- `WR_FR`: no state change (R93). -/
def execWrFr (_v : Word) (s : State) : Result := s.withBase (.next s)

/-! ## Baud divisor registers -/

/-- `RD_IBRD`: the cell, not the latch (R94). -/
def execRdIbrd (s : State) : Result := s.withBase (.next (s.returning s.ibrd))

/-- `WR_IBRD` (R95). -/
def execWrIbrd (v : Word) (s : State) : Result := s.withBase (.next (s.writeIbrd v))

/-- `RD_FBRD` (R96). -/
def execRdFbrd (s : State) : Result := s.withBase (.next (s.returning s.fbrd))

/-- `WR_FBRD` (R97). -/
def execWrFbrd (v : Word) (s : State) : Result := s.withBase (.next (s.writeFbrd v))

/-! ## Line control register -/

/-- `RD_LCRH`: a read loads no latch (R98). -/
def execRdLcrh (s : State) : Result := s.withBase (.next (s.returning s.lcrh))

/-- `WR_LCRH` (R99). -/
def execWrLcrh (v : Word) (s : State) : Result := s.withBase (s.writeLcrh v)

/-! ## Control register -/

/-- `RD_CR` (R100). -/
def execRdCr (s : State) : Result := s.withBase (.next (s.returning s.cr))

/-- `WR_CR` (R101). -/
def execWrCr (v : Word) (s : State) : Result := s.withBase (.next (s.writeCr v))

/-! ## Interrupt registers: present, stored, unused -/

/-- `RD_IFLS` (R102). -/
def execRdIfls (s : State) : Result := s.withBase (.next (s.returning s.ifls))

/-- `WR_IFLS` (R103). -/
def execWrIfls (v : Word) (s : State) : Result := s.withBase (.next (s.writeIfls v))

/-- `RD_IMSC` (R104). -/
def execRdImsc (s : State) : Result := s.withBase (.next (s.returning s.imsc))

/-- `WR_IMSC` (R105). -/
def execWrImsc (v : Word) (s : State) : Result := s.withBase (.next (s.writeImsc v))

/-- `RD_RIS`: `draw(11)` (R106). -/
def execRdRis (s : State) : Result := s.withBase (.next ((s.returning s.interruptDraw).spend 1))

/-- `WR_RIS`: no state change (R109). -/
def execWrRis (_v : Word) (s : State) : Result := s.withBase (.next s)

/-- `RD_MIS`: `draw(11) & reg.IMSC` (R107). -/
def execRdMis (s : State) : Result := s.withBase (.next ((s.returning (s.interruptDraw &&& s.imsc)).spend 1))

/-- `WR_MIS`: no state change (R109). -/
def execWrMis (_v : Word) (s : State) : Result := s.withBase (.next s)

/-- `RD_ICR`: `draw(32)`, a bus read of the write-only offset (R110). -/
def execRdIcr (s : State) : Result := s.withBase (.next ((s.returning (s.draw 32 0)).spend 1))

/-- `WR_ICR`: no state change (R108). -/
def execWrIcr (_v : Word) (s : State) : Result := s.withBase (.next s)

/-! ## Reserved offsets -/

/-- `RD_RESERVED`: `refuse(V_RESERVED_OFFSET)` (R111). -/
def execRdReserved (_off : Offset) (_s : State) : Result := .refused .reservedOffset

/-- `WR_RESERVED`: `refuse(V_RESERVED_OFFSET)` (R112). -/
def execWrReserved (_off : Offset) (_v : Word) (_s : State) : Result := .refused .reservedOffset

end Sys2Proof.Machine
end

