-- ==== Sys2Proof/Machine/ResetBind.lean ====
section
/-! DEFINITION. The reset step and the construction of a driver instance
(spec/70_reset_and_hazards.md R210, R212). -/

namespace Sys2Proof.Machine

/-- `RESET`: the block takes `RESET_STATE`, any running operation is abandoned (R210). -/
def execReset (s : State) : Result := .next s.resetBlock

/-- `BIND base`: a driver instance is bound to `base`, which is the BASE of the driver calls after it; no
transaction, no check (R212(1), R41, R77). -/
def execBind (base : Nat) (s : State) : Result := .next { s with bindings := base :: s.bindings }

end Sys2Proof.Machine
end

