-- ==== Sys2Proof/Machine/Transfer.lean ====
section
/-! DEFINITION. The polling transmit and receive state machines (spec/43_transfer.md R150 to R159): one
register access a step, each through BASE. -/

namespace Sys2Proof.Machine

/-- One phase of sending byte `b` (R150). POLL reads FR and tests TXFF of the value read; ACT writes
`zext_32(b)` to DR and the operation goes on as `after`. -/
def sendPhase (at_ : XferPhase → Call) (after : Option Call) (b : Byte) (ph : XferPhase) (s : State) :
    Result :=
  s.withBase <|
    match ph with
    | .POLL => .next (s.readFr.setCall (some (at_ (if s.flagReg.txff then .POLL else .ACT))))
    | .ACT => (s.writeDr (zext32 b)).andThen fun t => .next (t.setCall after)

/-- One phase of receiving a byte (R151). POLL reads FR and tests bit RXFE of the value read; ACT reads DR
and returns bits [7:0] of the value read. -/
def receivePhase (ph : XferPhase) (s : State) : Result :=
  s.withBase <|
    match ph with
    | .POLL => .next (s.readFr.setCall (some (.readByte (if s.flagReg.rxfe then .POLL else .ACT))))
    | .ACT => .next ({ s.readDr with returned := s.returned ++ [s.dataReg.data] }.setCall none)

/-- One phase of sending the sequence `bytes` at index `i` (R152): the phase of `WRITE_BYTE` for that
byte; past the end the operation is done without an access. -/
def sendSequence (bytes : List Byte) (at_ : Nat → XferPhase → Call) (i : Nat) (ph : XferPhase)
    (s : State) : Result :=
  match bytes[i]? with
  | none => .next (s.setCall none)
  | some b =>
    sendPhase (at_ i) (if i + 1 < bytes.length then some (at_ (i + 1) .POLL) else none) b ph s

/-- `WRITE_BYTE b` (R150): starts in POLL, or goes on in the phase it is in; with another operation
running two callers interleave (R52, R199). -/
def execWriteByte (b : Byte) (s : State) : Result :=
  match s.call with
  | none => sendPhase (.writeByte b) none b .POLL s
  | some (.writeByte b' ph) =>
    if b' = b then sendPhase (.writeByte b) none b ph s else .refused .sharedAccess
  | some _ => .refused .sharedAccess

/-- `READ_BYTE` (R151). -/
def execReadByte (s : State) : Result :=
  match s.call with
  | none => receivePhase .POLL s
  | some (.readByte ph) => receivePhase ph s
  | some _ => .refused .sharedAccess

/-- `WRITE_BYTES s` (R152). -/
def execWriteBytes (bytes : List Byte) (s : State) : Result :=
  match s.call with
  | none => sendSequence bytes (.writeBytes bytes) 0 .POLL s
  | some (.writeBytes bytes' i ph) =>
    if bytes' = bytes then sendSequence bytes (.writeBytes bytes) i ph s else .refused .sharedAccess
  | some _ => .refused .sharedAccess

/-- `WRITE_STR s`: `WRITE_BYTES(ENCODE(s))` (R153). -/
def execWriteStr (text : List Char) (s : State) : Result :=
  match s.call with
  | none => sendSequence (s.params.encode text) (.writeStr text) 0 .POLL s
  | some (.writeStr text' i ph) =>
    if text' = text then sendSequence (s.params.encode text) (.writeStr text) i ph s
    else .refused .sharedAccess
  | some _ => .refused .sharedAccess

end Sys2Proof.Machine
end

