-- ==== Sys2Proof/Machine/Dispatch.lean ====
section
/-! DEFINITION. One arm per operation of the table, each a direct call of its meaning. -/

namespace Sys2Proof.Machine

def exec (i : Instr) (s : State) : Host.Outcome State Fault Refusal :=
  match i with
  | .rdDr => Sys2Proof.Machine.execRdDr s
  | .wrDr v => Sys2Proof.Machine.execWrDr v s
  | .rdFr => Sys2Proof.Machine.execRdFr s
  | .wrFr v => Sys2Proof.Machine.execWrFr v s
  | .rdIbrd => Sys2Proof.Machine.execRdIbrd s
  | .wrIbrd v => Sys2Proof.Machine.execWrIbrd v s
  | .rdFbrd => Sys2Proof.Machine.execRdFbrd s
  | .wrFbrd v => Sys2Proof.Machine.execWrFbrd v s
  | .rdLcrh => Sys2Proof.Machine.execRdLcrh s
  | .wrLcrh v => Sys2Proof.Machine.execWrLcrh v s
  | .rdCr => Sys2Proof.Machine.execRdCr s
  | .wrCr v => Sys2Proof.Machine.execWrCr v s
  | .rdIfls => Sys2Proof.Machine.execRdIfls s
  | .wrIfls v => Sys2Proof.Machine.execWrIfls v s
  | .rdImsc => Sys2Proof.Machine.execRdImsc s
  | .wrImsc v => Sys2Proof.Machine.execWrImsc v s
  | .rdRis => Sys2Proof.Machine.execRdRis s
  | .wrRis v => Sys2Proof.Machine.execWrRis v s
  | .rdMis => Sys2Proof.Machine.execRdMis s
  | .wrMis v => Sys2Proof.Machine.execWrMis v s
  | .rdIcr => Sys2Proof.Machine.execRdIcr s
  | .wrIcr v => Sys2Proof.Machine.execWrIcr v s
  | .rdReserved off => Sys2Proof.Machine.execRdReserved off s
  | .wrReserved off v => Sys2Proof.Machine.execWrReserved off v s
  | .bauddiv c b => Sys2Proof.Machine.execBauddiv c b s
  | .init c b => Sys2Proof.Machine.execInit c b s
  | .writeByte b => Sys2Proof.Machine.execWriteByte b s
  | .readByte => Sys2Proof.Machine.execReadByte s
  | .writeBytes bytes => Sys2Proof.Machine.execWriteBytes bytes s
  | .writeStr text => Sys2Proof.Machine.execWriteStr text s
  | .bind base => Sys2Proof.Machine.execBind base s
  | .txLoad => Sys2Proof.Machine.execTxLoad s
  | .txDone => Sys2Proof.Machine.execTxDone s
  | .rxArrive d => Sys2Proof.Machine.execRxArrive d s
  | .modemChange => Sys2Proof.Machine.execModemChange s
  | .reset => Sys2Proof.Machine.execReset s

end Sys2Proof.Machine
end

