-- ==== Sys2Proof/Machine/Fetch.lean ====
section
/-! DEFINITION. Which operation the next step runs: the agent whose turn it is (spec/20_memory.md R51),
for the bus master its running operation or the next entry of its program (R50), for another context of the
software the entry it issues (R199). -/

namespace Sys2Proof.Machine

/-! ## The operations behind calls, program entries and turns -/

/-- The table's operation of a driver call (R77). -/
def DriverOp.instr : DriverOp → Instr
  | .bauddiv c b => .bauddiv c b
  | .init c b => .init c b
  | .writeByte b => .writeByte b
  | .readByte => .readByte
  | .writeBytes s => .writeBytes s
  | .writeStr s => .writeStr s
  | .bind base => .bind base

/-- The operation a running call belongs to. -/
def Call.instr : Call → Instr
  | .init c b _ => .init c b
  | .writeByte b _ => .writeByte b
  | .readByte _ => .readByte
  | .writeBytes s _ _ => .writeBytes s
  | .writeStr s _ _ => .writeStr s

/-! ## Whose turn it is (R37, R51; log 2) -/

/-- The turn a free value selects. -/
def Turn.ofChoice (agent : Fin 6) (d : Byte) : Turn :=
  match agent with
  | 0 => .master
  | 1 => .txLoad
  | 2 => .txDone
  | 3 => .rxArrive d
  | 4 => .modemChange
  | 5 => .reset

/-- The turn of this step: the head of the schedule, or a free value when it is empty. -/
def State.turn (s : State) : Turn :=
  match s.schedule with
  | t :: _ => t
  | [] => Turn.ofChoice (Config.freeAgent s.draws) (Config.freeByte s.draws)

/-- The state with this turn used up. -/
def State.afterTurn (s : State) : State :=
  match s.schedule with
  | _ :: rest => { s with schedule := rest }
  | [] => s.spend 1

/-! ## What the bus master does on its turn -/

/-- The program with its first entry issued. -/
def State.setProgram (s : State) (rest : List Item) : State := { s with program := rest }

/-- What a step is going to run: an operation and the state it runs in; none when there is nothing to run. -/
abbrev Fetched := Option Instr × State

/-- A transaction word is decoded when it is issued; a misaligned offset is `V_BAD_ACCESS` (R61, R45), an offset
outside the window reaches no block (R60, R40). -/
def fetchWord (t : Transaction) (s : State) : Host.Outcome Fetched Fault Refusal :=
  match decode s.params.layout t with
  | .ok i => .next (some i, s)
  | .error .misalignedOffset => .refused .badAccess
  | .error .outsideWindow => .refused .outsideWindow

/-- An access through BASE (R44): another master's is `V_SHARED_ACCESS` (R52), a size other than 4 or a
misaligned offset is `V_BAD_ACCESS` (R45), an offset outside the window reaches no block (R40). Otherwise it is
the register operation at its offset, which tests BASE (R41). -/
def fetchAccess (a : Access) (s : State) : Host.Outcome Fetched Fault Refusal :=
  if a.master = .other then .refused .sharedAccess
  else if a.size ≠ 4 ∨ a.off % 4 ≠ 0 then .refused .badAccess
  else if s.params.layout.blockSize ≤ a.off then .refused .outsideWindow
  else fetchWord (transaction a.write (BitVec.ofNat 12 a.off) (if a.write then a.data else 0#32)) s

/-- What an entry asks for. -/
def fetchRequest (r : Request) (s : State) : Host.Outcome Fetched Fault Refusal :=
  match r with
  | .word t => fetchWord t s
  | .access a => fetchAccess a s
  | .call op => .next (some op.instr, s)

/-- An entry that is issued: with the BASE it passes (R41). -/
def fetchItem (item : Item) (s : State) : Host.Outcome Fetched Fault Refusal :=
  fetchRequest item.request (s.setBase item.base)

/-- The bus master's turn: the running operation goes on (one caller, no cancellation: R159); else the
next entry of the program is issued; else the bus master is idle (log 14). -/
def fetchMaster (s : State) : Host.Outcome Fetched Fault Refusal :=
  match s.call with
  | some c => .next (some c.instr, s)
  | none =>
    match s.program with
    | item :: rest => fetchItem item (s.setProgram rest)
    | [] => .next (none, s)

/-- The entry accesses the block; the divisor calculator and the construction of an instance do not (R130,
R212). -/
def Request.sharesBlock : Request → Bool
  | .call (.bauddiv _ _) | .call (.bind _) => false
  | .word _ | .access _ | .call (.init _ _) | .call (.writeByte _) | .call .readByte => true
  | .call (.writeBytes _) | .call (.writeStr _) => true

/-- Another context's turn: between two operations its entry is issued as any other (external
synchronization); in the middle of one an access or a call into the instance is `V_SHARED_ACCESS`, be it the
same operation again (R199, R52). -/
def fetchContext (item : Item) (s : State) : Host.Outcome Fetched Fault Refusal :=
  match s.call with
  | none => fetchItem item s
  | some _ => if item.request.sharesBlock then .refused .sharedAccess else fetchRequest item.request s

/-- What the next step runs. -/
def fetch (s : State) : Host.Outcome Fetched Fault Refusal :=
  match s.turn with
  | .master => fetchMaster s.afterTurn
  | .context item => fetchContext item s.afterTurn
  | .txLoad => .next (some .txLoad, s.afterTurn)
  | .txDone => .next (some .txDone, s.afterTurn)
  | .rxArrive d => .next (some (.rxArrive d), s.afterTurn)
  | .modemChange => .next (some .modemChange, s.afterTurn)
  | .reset => .next (some .reset, s.afterTurn)

end Sys2Proof.Machine
end

