-- ==== Sys2Proof/Machine/Step.lean ====
section
/-! DEFINITION. One step of the machine: one step of one agent (spec/20_memory.md R47, R51). -/

namespace Sys2Proof.Machine

/-- One step: the operation the fetch selects, run by `exec`; nothing for an idle bus master. -/
def step (s : State) : Host.Outcome State Fault Refusal :=
  match fetch s with
  | .next (some i, t) => exec i t
  | .next (none, t) => .next t
  | .fault f => .fault f
  | .refused r => .refused r

/-- `s` with the transaction word `w` as the bus master's next access, at the block's own address, and the next
turn the bus master's, no operation running (log 1, log 23). -/
def State.withFetchWord (s : State) (_nbits w : Nat) : State :=
  { s with
    program := ⟨some s.blockBase, .word (BitVec.ofNat 45 w)⟩ :: s.program
    schedule := .master :: s.schedule
    call := none }

end Sys2Proof.Machine
end

