-- ==== Sys2Proof/Safety.lean ====
section
/-! DEFINITION. The terms claims use: the invariants (spec/10_state.md R35), the launch predicates (R211),
the streams of bytes (R177, R223), runs of several steps, infinite executions with their fairness (R178), and the
hazards (R191). -/

namespace Sys2Proof.Machine

/-! ## Runs -/

/-- `n` steps, ending at the first fault or refusal. -/
def run : Nat → State → Result
  | 0, s => .next s
  | n + 1, s => Result.andThen (step s) (run n)

/-- The step of a hardware agent or of reset; none for a turn of the software. -/
def Turn.instr? : Turn → Option Instr
  | .master | .context _ => none
  | .txLoad => some .txLoad
  | .txDone => some .txDone
  | .rxArrive d => some (.rxArrive d)
  | .modemChange => some .modemChange
  | .reset => some .reset

/-- A turn of a hardware agent other than reset (R51). -/
def Turn.isHardware : Turn → Bool
  | .txLoad | .txDone | .rxArrive _ | .modemChange => true
  | .master | .reset | .context _ => false

/-- A turn of the hardware, or of the bus master: the run of a sole owner without a reset (R52, R210). -/
def Turn.isQuiet : Turn → Bool
  | .master | .txLoad | .txDone | .rxArrive _ | .modemChange => true
  | .reset | .context _ => false

/-- The byte of an arrival. -/
def Turn.arrival? : Turn → Option Byte
  | .rxArrive d => some d
  | .master | .txLoad | .txDone | .modemChange | .reset | .context _ => none

/-- The bytes that arrive in the turns `ts`, in order. -/
def arrivals (ts : List Turn) : List Byte := ts.filterMap Turn.arrival?

/-! ## Invariants (R35) and what a running operation may rely on (R155, R156) -/

/-- The operation's next access is a write of DR. -/
def Call.aboutToWrite : Call → Bool
  | .writeByte _ .ACT | .writeBytes _ _ .ACT | .writeStr _ _ .ACT => true
  | .init _ _ _ | .readByte _ | .writeByte _ .POLL | .writeBytes _ _ .POLL | .writeStr _ _ .POLL => false

/-- The operation's next access is a poll of FR. -/
def Call.polls : Call → Bool
  | .writeByte _ .POLL | .writeBytes _ _ .POLL | .writeStr _ _ .POLL | .readByte .POLL => true
  | .init _ _ _ | .readByte .ACT | .writeByte _ .ACT | .writeBytes _ _ .ACT | .writeStr _ _ .ACT => false

/-- The operands a running call must have: a baud rate other than 0 (R135), an index inside the sequence
(R152). -/
def Call.wf (p : Params) : Call → Bool
  | .init _ b _ => p.baud b != 0
  | .writeBytes bytes i _ => decide (i < bytes.length)
  | .writeStr text i _ => decide (i < (p.encode text).length)
  | .writeByte _ _ | .readByte _ => true

/-- What R35 says of the queues and the cells, and R27 of the latch: each within its capacity or width. -/
structure Fits (s : State) : Prop where
  txFifo_le : s.txFifo.length ≤ s.txCap
  rxFifo_le : s.rxFifo.length ≤ s.rxCap
  ibrd_lt : s.ibrd.toNat < 2 ^ s.params.layout.width.ibrd
  fbrd_lt : s.fbrd.toNat < 2 ^ s.params.layout.width.fbrd
  lcrh_lt : s.lcrh.toNat < 2 ^ s.params.layout.width.lcrh
  cr_lt : s.cr.toNat < 2 ^ s.params.layout.width.cr
  ifls_lt : s.ifls.toNat < 2 ^ s.params.layout.width.ifls
  imsc_lt : s.imsc.toNat < 2 ^ s.params.layout.width.imsc
  latchIbrd_lt : s.baudLatch.ibrd.toNat < 2 ^ s.params.layout.width.ibrd
  latchFbrd_lt : s.baudLatch.fbrd.toNat < 2 ^ s.params.layout.width.fbrd

/-- The invariants: the parameters are ones (a layout, depths of at least 1, a RESET_STATE that satisfies R35, as
R38 asks), the state satisfies R35, and the running operation has the operands it started with, finds room for
the write of DR it announced (R155) and a byte for the read (R156). -/
structure Inv (s : State) : Prop where
  layout_wf : s.params.layout.wf = true
  txDepth_pos : 1 ≤ s.params.txDepth
  rxDepth_pos : 1 ≤ s.params.rxDepth
  fits : Fits s
  reset_fits : Fits s.resetBlock
  call_wf : ∀ c, s.call = some c → c.wf s.params = true
  write_room : ∀ c, s.call = some c → c.aboutToWrite = true → s.txFifo.length < s.txCap
  read_byte : s.call = some (.readByte .ACT) → s.rxFifo ≠ []

/-- `at_reset` (R211): the block holds exactly `RESET_STATE`. -/
def atReset (s : State) : Prop := s.resetBlock = s

/-- `any_launch` (R211): the invariants hold and no operation runs. -/
def anyLaunch (s : State) : Prop := Inv s ∧ s.call = none

/-! ## Streams of bytes (R177, R223) -/

/-- What was accepted for sending, in order: on the wire, in the shifter, in the FIFO. -/
def sentStream (s : State) : List Byte := s.wireOut ++ s.txShift.toList ++ s.txFifo

/-- What was received, in order: returned by `READ_BYTE`, then still in the FIFO. -/
def receivedStream (s : State) : List Byte := s.returned ++ s.rxFifo

/-- The bytes a running operation has yet to write to DR. -/
def Call.pending (p : Params) : Call → List Byte
  | .writeByte b _ => [b]
  | .writeBytes bytes i _ => bytes.drop i
  | .writeStr text i _ => (p.encode text).drop i
  | .init _ _ _ | .readByte _ => []

/-- The bytes the state's running operation has yet to write. -/
def pendingBytes (s : State) : List Byte :=
  match s.call with
  | some c => c.pending s.params
  | none => []

/-- The bytes an operation of the bus master is asked to send. -/
def requestedBytes (p : Params) : Instr → List Byte
  | .wrDr v => [dataOperand v]
  | .writeByte b => [b]
  | .writeBytes bytes => bytes
  | .writeStr text => p.encode text
  | _ => []

/-- The operation the next step starts when it is a turn of the software and no operation runs. -/
def issued? (s : State) : Option Instr :=
  match s.turn.instr?, s.call, fetch s with
  | none, none, .next (some i, _) => some i
  | _, _, _ => none

/-- The bytes newly asked for by the next step. -/
def issuedBytes (s : State) : List Byte :=
  match issued? s with
  | some i => requestedBytes s.params i
  | none => []

/-! ## The register access behind a driver operation (R77) -/

/-- The access of one phase of sending `bytes` at index `i` (R150, R152); none past the end. -/
def sendAccess (bytes : List Byte) (i : Nat) : XferPhase → Option Instr
  | .POLL => bytes[i]?.map fun _ => .rdFr
  | .ACT => bytes[i]?.map fun b => .wrDr (zext32 b)

/-- The access a running operation makes next (R140, R150 to R153). -/
def Call.access? (c : Call) (s : State) : Option Instr :=
  match c with
  | .init c b .I0 => some (.wrIbrd (s.params.divisor c b).intOperand)
  | .init c b .I1 => some (.wrFbrd (s.params.divisor c b).fracOperand)
  | .init _ _ .I2 => some (.wrLcrh (lcrhInit s.params.layout))
  | .init _ _ .I3 => some (.wrCr (crInit s.params.layout))
  | .writeByte b ph => sendAccess [b] 0 ph
  | .readByte .POLL => some .rdFr
  | .readByte .ACT => some .rdDr
  | .writeBytes bytes i ph => sendAccess bytes i ph
  | .writeStr text i ph => sendAccess (s.params.encode text) i ph

/-- The first phase of an operation of the driver that makes accesses; none for the others. -/
def firstPhase? (i : Instr) : Option Call :=
  match i with
  | .init c b => some (.init c b .I0)
  | .writeByte b => some (.writeByte b .POLL)
  | .readByte => some (.readByte .POLL)
  | .writeBytes bytes => some (.writeBytes bytes 0 .POLL)
  | .writeStr text => some (.writeStr text 0 .POLL)
  | .rdDr | .wrDr _ | .rdFr | .wrFr _ | .rdIbrd | .wrIbrd _ | .rdFbrd | .wrFbrd _ | .rdLcrh | .wrLcrh _ => none
  | .rdCr | .wrCr _ | .rdIfls | .wrIfls _ | .rdImsc | .wrImsc _ | .rdRis | .wrRis _ | .rdMis | .wrMis _ => none
  | .rdIcr | .wrIcr _ | .rdReserved _ | .wrReserved _ _ | .bauddiv _ _ | .bind _ => none
  | .txLoad | .txDone | .rxArrive _ | .modemChange | .reset => none

/-- The access one step of the bus master makes when it runs `i` in `s`: for a driver operation, that of its
phase; for a register operation, itself; none for a step without an access. -/
def busAccess (i : Instr) (s : State) : Option Instr :=
  match firstPhase? i with
  | some first => (s.call.getD first).access? s
  | none => if (i.busForm s.params.layout).isSome then some i else none

/-- The operation the next step runs. -/
def operation (s : State) : Option Instr :=
  match fetch s with
  | .next (i, _) => i
  | .fault _ | .refused _ => none

/-- The access the next step makes. -/
def accessMade (s : State) : Option Instr :=
  match fetch s with
  | .next (some i, t) => busAccess i t
  | .next (none, _) | .fault _ | .refused _ => none

/-- The state without the record of the driver's own operation: what an access is compared by. -/
def State.accessView (s : State) : State := { s with call := none, divisor := ⟨0, 0⟩, returned := [] }

/-! ## What a free value may reach (R23, R90, R92) -/

/-- The state without what a free value may show in: the value last read, and the counter. -/
def State.undrawn (s : State) : State := { s with readData := 0#32, draws := 0 }

/-- A result without what a free value may show in. -/
def Result.undrawn (r : Result) : Result :=
  match r with
  | .next s => .next s.undrawn
  | .fault f => .fault f
  | .refused v => .refused v

/-! ## Infinite executions and fairness (R51, R178) -/

/-- An infinite execution: every state goes on to the next, and the environment says at each step which turns come
(R51: the schedule is fixed by nothing). -/
def Execution (ρ : Nat → State) : Prop :=
  ∀ n, ∃ t, step (ρ n) = .next t ∧ ρ (n + 1) = { t with schedule := (ρ (n + 1)).schedule }

/-- Weak fairness of an agent: if its step stays enabled from some point on, its turn comes (R178). -/
def WeaklyFair (ρ : Nat → State) (turn : Turn) (enabled : State → Bool) : Prop :=
  ∀ n, (∀ m ≥ n, enabled (ρ m) = true) → ∃ m ≥ n, (ρ m).turn = turn

/-- The fairness of the transmitter, the only one there is: RX_ARRIVE is owed by nobody (R178). -/
def Fair (ρ : Nat → State) : Prop :=
  WeaklyFair ρ .txLoad State.txLoadEnabled ∧ WeaklyFair ρ .txDone fun s => s.txShift.isSome

/-- The bus master's turn comes again and again. -/
def MasterRuns (ρ : Nat → State) : Prop := ∀ n, ∃ m ≥ n, (ρ m).turn = .master

/-! ## Condition codes and hazards (R191) -/

/-- The code of a `V_` condition (R191); 0 for the two that are not the spec's. -/
def Refusal.code : Refusal → Nat
  | .badBase => 1
  | .badAccess => 2
  | .sharedAccess => 3
  | .reservedOffset => 4
  | .txOverflow => 5
  | .fenChangeNonempty => 6
  | .reconfigInFlight => 7
  | .zeroBaud => 8
  | .lineConfig => 9
  | _ => 0

/-- The hazards `H_*`: a defined but probably unintended outcome. -/
inductive Hazard where
  | divisorOrder
  | reconfigEnabled
  | txNoPoll
  | rxUnderflow
  | notDrained
  | hang
  | zeroDivisor
  | rxOverrun
  deriving DecidableEq, Repr

/-- The code of a hazard (R191). -/
def Hazard.code : Hazard → Nat
  | .divisorOrder => 101
  | .reconfigEnabled => 102
  | .txNoPoll => 103
  | .rxUnderflow => 104
  | .notDrained => 105
  | .hang => 106
  | .zeroDivisor => 107
  | .rxOverrun => 108

/-! ### What the steps of an execution do -/

/-- The step is a write of DR. -/
def writesDr (s : State) : Bool :=
  match accessMade s with
  | some (.wrDr _) => true
  | _ => false

/-- The step is a read of DR. -/
def readsDr (s : State) : Bool := accessMade s == some .rdDr

/-- The step reads FR with TXFF = 0. -/
def seesRoom (s : State) : Bool := accessMade s == some .rdFr && !s.txff

/-- The step reads FR with RXFE = 0. -/
def seesByte (s : State) : Bool := accessMade s == some .rdFr && !s.rxfe

/-- The value the step writes to LCR_H. -/
def writesLcrh? (s : State) : Option Word :=
  match accessMade s with
  | some (.wrLcrh v) => some v
  | _ => none

/-- The step writes IBRD. -/
def writesIbrd (s : State) : Bool :=
  match accessMade s with
  | some (.wrIbrd _) => true
  | _ => false

/-- The step writes FBRD. -/
def writesFbrd (s : State) : Bool :=
  match accessMade s with
  | some (.wrFbrd _) => true
  | _ => false

/-- The step is a phase of INIT. -/
def inInit (s : State) : Bool :=
  match operation s with
  | some (.init _ _) => true
  | _ => false

/-- The cells hold another divisor than the latch. -/
def staleLatch (s : State) : Bool := s.cellDivisor != s.baudLatch

/-- The step is a write of LCR_H or a reset: what was written to the divisor registers before it counts no more. -/
def startsDivisor (s : State) : Bool := (writesLcrh? s).isSome || s.turn == .reset

/-- Step `m` of the execution, before step `n`, does `p`, and no step between the two does `q`. -/
def Since (ρ : Nat → State) (n : Nat) (p q : State → Bool) : Prop :=
  ∃ m < n, p (ρ m) = true ∧ ∀ k, m < k → k < n → q (ρ k) = false

/-- The hazard is met by step `n` of the execution (log 28 names what of this reading is the model's).
H_DIVISOR_ORDER: outside INIT, a write of LCR_H comes before both divisor registers were written since the write
of LCR_H before it, and one of them is written after it so that a stale divisor stays latched until the next write
of LCR_H; or a divisor register is written and no write of LCR_H ever loads it (R214).
H_RECONFIG_ENABLED: a write of LCR_H changes something while the UART is enabled (R215); that one which changes
nothing is none is the model's choice (log 28).
H_TX_NO_POLL: a write of DR without TXFF read as 0 since the last write of DR (R216).
H_RX_UNDERFLOW: a read of DR with the receive FIFO empty (R90), or without RXFE read as 0 since the last read of
DR (R217).
H_NOT_DRAINED: no operation runs and bytes are still inside the block (R218).
H_HANG: a poll loop never ends though the bus master's turn comes again and again (R194, R219).
H_ZERO_DIVISOR: BAUDDIV or INIT runs with a pair that has `C < 16 B` (R134, R221).
H_RX_OVERRUN: an arriving byte is lost because the receive FIFO is full (R173). -/
def Hazard.met (h : Hazard) (ρ : Nat → State) (n : Nat) : Prop :=
  match h with
  | .divisorOrder =>
    inInit (ρ n) = false ∧
      ((writesLcrh? (ρ n) ≠ none ∧
          ¬ (Since ρ n writesIbrd startsDivisor ∧ Since ρ n writesFbrd startsDivisor) ∧
          ∃ m > n, (writesIbrd (ρ m) || writesFbrd (ρ m)) = true ∧ staleLatch (ρ (m + 1)) = true ∧
            ∀ k, n < k → k ≤ m → startsDivisor (ρ k) = false) ∨
        ((writesIbrd (ρ n) || writesFbrd (ρ n)) = true ∧
          ∀ m > n, staleLatch (ρ m) = true ∧ writesLcrh? (ρ m) = none))
  | .reconfigEnabled =>
    ∃ v, writesLcrh? (ρ n) = some v ∧ crUarten (ρ n).params.layout (ρ n).cr = true ∧
      (ρ n).lineControlChanges (lcrhOperand (ρ n).params.layout v) = true
  | .txNoPoll => writesDr (ρ n) = true ∧ ¬ Since ρ n seesRoom writesDr
  | .rxUnderflow => readsDr (ρ n) = true ∧ ((ρ n).rxFifo = [] ∨ ¬ Since ρ n seesByte readsDr)
  | .notDrained => (ρ n).call = none ∧ (ρ n).busy = true
  | .hang =>
    (∃ c, (ρ n).call = some c ∧ c.polls = true ∧ ∀ m ≥ n, (ρ m).call = some c) ∧ MasterRuns ρ
  | .zeroDivisor =>
    ∃ c b, (operation (ρ n) = some (.bauddiv c b) ∨ operation (ρ n) = some (.init c b)) ∧
      1 ≤ (ρ n).params.baud b ∧ (ρ n).params.clock c < 16 * (ρ n).params.baud b
  | .rxOverrun =>
    (∃ d, (ρ n).turn = .rxArrive d) ∧ (ρ n).rxEnabled = true ∧ (ρ n).lineAdmitted = true ∧
      (ρ n).rxCap ≤ (ρ n).rxFifo.length

end Sys2Proof.Machine
end

