-- ==== Sys2Proof/Certificates/Slice0/Obligations.lean ====
section
/-! DEFINITION. The statements for the provers, by the rules of spec/. Values that a rule leaves to a
`draw` are constrained here only as far as the rule constrains them, for every value of the draw. -/

open Sys2Proof Sys2Proof.Machine

/-! ## Transaction words and the map (R60 to R64) -/

/-- `T = dir << 44 | off << 32 | wdata`, and the three fields are read back at `T[44]`, `T[43:32]`,
`T[31:0]` (R60). -/
def Obligations.TransactionWordLayout : Prop :=
  (∀ (write : Bool) (off : Offset) (v : Word),
    (transaction write off v).toNat = (if write then 1 else 0) * 2 ^ 44 + off.toNat * 2 ^ 32 + v.toNat) ∧
  (∀ t : Transaction,
    dirOf t = decide (t.toNat / 2 ^ 44 % 2 = 1) ∧ (offsetOf t).toNat = t.toNat / 2 ^ 32 % 2 ^ 12 ∧
    (wdataOf t).toNat = t.toNat % 2 ^ 32)

/-- Decoding is by direction and offset alone, in every layout: a misaligned offset and one outside the window are
rejected, a listed one is its row, any other is reserved (R60, R61, R62, R64); and the default offsets are those of
R62. -/
def Obligations.DecodeFollowsRegisterMap : Prop :=
  (∀ (L : Layout) (write : Bool) (off : Offset) (v : Word),
    decode L (transaction write off v) =
      if off.toNat % 4 ≠ 0 then .error .misalignedOffset
      else if L.blockSize ≤ off.toNat then .error .outsideWindow
      else if off = L.off.dr then .ok (if write then .wrDr v else .rdDr)
      else if off = L.off.fr then .ok (if write then .wrFr v else .rdFr)
      else if off = L.off.ibrd then .ok (if write then .wrIbrd v else .rdIbrd)
      else if off = L.off.fbrd then .ok (if write then .wrFbrd v else .rdFbrd)
      else if off = L.off.lcrh then .ok (if write then .wrLcrh v else .rdLcrh)
      else if off = L.off.cr then .ok (if write then .wrCr v else .rdCr)
      else if off = L.off.ifls then .ok (if write then .wrIfls v else .rdIfls)
      else if off = L.off.imsc then .ok (if write then .wrImsc v else .rdImsc)
      else if off = L.off.ris then .ok (if write then .wrRis v else .rdRis)
      else if off = L.off.mis then .ok (if write then .wrMis v else .rdMis)
      else if off = L.off.icr then .ok (if write then .wrIcr v else .rdIcr)
      else .ok (if write then .wrReserved off v else .rdReserved off)) ∧
  Layout.default.blockSize = 0x1000 ∧
  Layout.default.off = ⟨0x000#12, 0x018#12, 0x024#12, 0x028#12, 0x02C#12, 0x030#12, 0x034#12, 0x038#12,
    0x03C#12, 0x040#12, 0x044#12⟩

/-- A few words of the spec's worked examples decode, in the default layout, to the operations they stand for
(R148 and the vectors A1, A13, A19). The last word is no worked example: that a misaligned offset is rejected rests
on R61 with R45. -/
def Obligations.WorkedWordsDecode : Prop :=
  let decode := Sys2Proof.decode Layout.default
  decode 0x10240000001B#45 = .ok (.wrIbrd 27#32) ∧ decode 0x102800000008#45 = .ok (.wrFbrd 8#32) ∧
  decode 0x102C00000070#45 = .ok (.wrLcrh 0x70#32) ∧ decode 0x103000000301#45 = .ok (.wrCr 0x301#32) ∧
  decode 0x001800000000#45 = .ok .rdFr ∧ decode 0x100000000041#45 = .ok (.wrDr 0x41#32) ∧
  decode 0x000400000000#45 = .ok (.rdReserved 0x004#12) ∧
  decode 0x000100000000#45 = .error .misalignedOffset

/-- Decode inverts encode on every well-formed operation that has a word, in every layout; the operations without
one are the seven pseudo-operations and the five hardware steps. -/
def Obligations.DecodeInvertsEncode : Prop :=
  (∀ (L : Layout) (i : Instr) (t : Transaction), L.wf = true → i.wf L = true → encode L i = some t →
    decode L t = .ok i) ∧
  (∀ (L : Layout) (i : Instr), encode L i = none ↔
    (∃ c b, i = .bauddiv c b) ∨ (∃ c b, i = .init c b) ∨ (∃ b, i = .writeByte b) ∨ i = .readByte ∨
    (∃ s, i = .writeBytes s) ∨ (∃ s, i = .writeStr s) ∨ (∃ base, i = .bind base) ∨ i = .txLoad ∨
    i = .txDone ∨ (∃ d, i = .rxArrive d) ∨ i = .modemChange ∨ i = .reset)

/-- Encode inverts decode up to the ignored operand of a read, and what is decoded is well-formed, in every
layout. -/
def Obligations.EncodeInvertsDecode : Prop :=
  ∀ (L : Layout) (t : Transaction) (i : Instr), decode L t = .ok i →
    i.wf L = true ∧
    encode L i = some (transaction (dirOf t) (offsetOf t) (if dirOf t then wdataOf t else 0#32))

/-! ## What a step runs (R47, R50, R51, R159) -/

/-- On the bus master's turn, with no operation running, a step runs the operation the transaction word at
the head of the program decodes to, with that turn and that entry used up and BASE the one the entry passes (the
operation tests it); a misaligned word is V_BAD_ACCESS, one outside the window reaches no block. That the turn and
the word come from lists in State is the model's choice (log 1, log 2), and so is how an entry passes its BASE
(log 10) and the name of the stop outside the window (log 11). -/
def Obligations.StepRunsDecodedWord : Prop :=
  ∀ (s : State) (ts : List Turn) (base : Option Nat) (t : Transaction) (rest : List Item),
    s.schedule = .master :: ts → s.call = none → s.program = ⟨base, .word t⟩ :: rest →
    (∀ i, decode s.params.layout t = .ok i →
      step s = exec i { s with
        schedule := ts, program := rest, base := base.getD (s.bindings.head?.getD s.base) }) ∧
    (decode s.params.layout t = .error .misalignedOffset → step s = .refused .badAccess) ∧
    (decode s.params.layout t = .error .outsideWindow → step s = .refused .outsideWindow)

/-- A scheduled turn of a hardware agent runs its step; on the bus master's turn the running operation goes
on, else the next call of the program runs with the BASE it passes (log 10), else nothing happens (log 14); between
two operations another context's entry runs as the head of the program would (R199, log 12); with an empty schedule
the step is that of some turn (log 2). -/
def Obligations.StepFollowsScheduleAndProgram : Prop :=
  (∀ (s : State) (turn : Turn) (ts : List Turn) (i : Instr),
    s.schedule = turn :: ts →
    (turn = .txLoad ∧ i = .txLoad) ∨ (turn = .txDone ∧ i = .txDone) ∨
      (∃ d, turn = .rxArrive d ∧ i = .rxArrive d) ∨ (turn = .modemChange ∧ i = .modemChange) ∨
      (turn = .reset ∧ i = .reset) →
    step s = exec i { s with schedule := ts }) ∧
  (∀ (s : State) (ts : List Turn) (c : Call),
    s.schedule = .master :: ts → s.call = some c → step s = exec c.instr { s with schedule := ts }) ∧
  (∀ (s : State) (ts : List Turn) (base : Option Nat) (op : DriverOp) (rest : List Item),
    s.schedule = .master :: ts → s.call = none → s.program = ⟨base, .call op⟩ :: rest →
    step s = exec op.instr { s with
      schedule := ts, program := rest, base := base.getD (s.bindings.head?.getD s.base) }) ∧
  (∀ (s : State) (ts : List Turn),
    s.schedule = .master :: ts → s.call = none → s.program = [] → step s = .next { s with schedule := ts }) ∧
  (∀ (s : State) (ts : List Turn) (item : Item), s.schedule = .context item :: ts → s.call = none →
    step s = step { s with schedule := .master :: ts, program := item :: s.program }) ∧
  (∀ s : State, s.schedule = [] →
    ∃ turn : Turn, step s = step { s with schedule := [turn], draws := s.draws + 1 })

/-- An access by address: of another size or misaligned it is V_BAD_ACCESS (R45); otherwise it is the operation of
the register at its offset (R44), through the BASE it passes, which that operation tests (R41). That every access of
another master is V_SHARED_ACCESS, interleaved or not, is the model's reading of R52 (log 12); how an entry passes
its BASE is log 10; that an offset outside the window reaches no block is log 11; the order of the tests is log 24. -/
def Obligations.AccessByAddress : Prop :=
  ∀ (s : State) (ts : List Turn) (base : Option Nat) (a : Access) (rest : List Item),
    s.schedule = .master :: ts → s.call = none → s.program = ⟨base, .access a⟩ :: rest →
    (a.master = .other → step s = .refused .sharedAccess) ∧
    (a.master = .owner → a.size ≠ 4 ∨ a.off % 4 ≠ 0 → step s = .refused .badAccess) ∧
    (a.master = .owner → a.size = 4 → a.off % 4 = 0 → a.off < s.params.layout.blockSize →
      ∀ i, decode s.params.layout (transaction a.write (BitVec.ofNat 12 a.off) a.data) = .ok i →
        step s = exec i { s with
          schedule := ts, program := rest, base := base.getD (s.bindings.head?.getD s.base) }) ∧
    (a.master = .owner → a.size = 4 → a.off % 4 = 0 → s.params.layout.blockSize ≤ a.off →
      step s = .refused .outsideWindow)

/-! ## Register access (R90 to R112) -/

/-- The reads of the four cells the driver programs return the cell and change nothing else, the latch included
(R94, R96, R98, R100), on a good BASE (R41). The cell is held zero-extended to the register's 32 bits: in every state
that meets the invariants its bits above the effective ones are 0. -/
def Obligations.ConfigurationReads : Prop :=
  (∀ s : State, s.baseOk = true →
    exec .rdIbrd s = .next { s with readData := s.ibrd } ∧
    exec .rdFbrd s = .next { s with readData := s.fbrd } ∧
    exec .rdLcrh s = .next { s with readData := s.lcrh } ∧
    exec .rdCr s = .next { s with readData := s.cr }) ∧
  (∀ s : State, Inv s →
    let width := s.params.layout.width
    (∀ k, width.ibrd ≤ k → s.ibrd.getLsbD k = false) ∧ (∀ k, width.fbrd ≤ k → s.fbrd.getLsbD k = false) ∧
    (∀ k, width.lcrh ≤ k → s.lcrh.getLsbD k = false) ∧ (∀ k, width.cr ≤ k → s.cr.getLsbD k = false)) ∧
  encode Layout.default .rdIbrd = some 0x002400000000#45 ∧
  encode Layout.default .rdFbrd = some 0x002800000000#45 ∧
  encode Layout.default .rdLcrh = some 0x002C00000000#45 ∧
  encode Layout.default .rdCr = some 0x003000000000#45

/-- The writes of the divisor cells and of CR store their effective bits, replacing the whole field, and
change nothing else, the latch included (R95, R97, R101), on a good BASE (R41). -/
def Obligations.ConfigurationWrites : Prop :=
  (∀ (s : State) (v : Word), s.baseOk = true →
    let width := s.params.layout.width
    exec (.wrIbrd v) s = .next { s with ibrd := BitVec.ofNat 32 (v.toNat % 2 ^ width.ibrd) } ∧
    exec (.wrFbrd v) s = .next { s with fbrd := BitVec.ofNat 32 (v.toNat % 2 ^ width.fbrd) } ∧
    exec (.wrCr v) s = .next { s with cr := BitVec.ofNat 32 (v.toNat % 2 ^ width.cr) }) ∧
  Layout.default.width.ibrd = 16 ∧ Layout.default.width.fbrd = 6 ∧ Layout.default.width.cr = 16 ∧
  (∀ v : Word, encode Layout.default (.wrIbrd v) = some (0x1024#13 ++ v) ∧
    encode Layout.default (.wrFbrd v) = some (0x1028#13 ++ v) ∧
    encode Layout.default (.wrCr v) = some (0x1030#13 ++ v))

/-- IFLS and IMSC are plain storage (R102 to R105), on a good BASE (R41); in every state that meets the invariants
their bits above the effective ones are 0. -/
def Obligations.InterruptStorage : Prop :=
  (∀ (s : State) (v : Word), s.baseOk = true →
    let width := s.params.layout.width
    exec .rdIfls s = .next { s with readData := s.ifls } ∧
    exec (.wrIfls v) s = .next { s with ifls := BitVec.ofNat 32 (v.toNat % 2 ^ width.ifls) } ∧
    exec .rdImsc s = .next { s with readData := s.imsc } ∧
    exec (.wrImsc v) s = .next { s with imsc := BitVec.ofNat 32 (v.toNat % 2 ^ width.imsc) }) ∧
  (∀ s : State, Inv s →
    (∀ k, s.params.layout.width.ifls ≤ k → s.ifls.getLsbD k = false) ∧
    (∀ k, s.params.layout.width.imsc ≤ k → s.imsc.getLsbD k = false)) ∧
  Layout.default.width.ifls = 6 ∧ Layout.default.width.imsc = 11 ∧
  encode Layout.default .rdIfls = some 0x003400000000#45 ∧
  encode Layout.default .rdImsc = some 0x003800000000#45 ∧
  (∀ v : Word, encode Layout.default (.wrIfls v) = some (0x1034#13 ++ v) ∧
    encode Layout.default (.wrImsc v) = some (0x1038#13 ++ v))

/-- What is written to a cell is read back masked to its effective bits; the bits above read as zero
(R23, of its two readings the one of log 17). -/
def Obligations.CellsReadBackMasked : Prop :=
  ∀ (s : State) (v : Word) (wr rd : Instr) (width : Nat), s.baseOk = true →
    let w := s.params.layout.width
    (wr = .wrIbrd v ∧ rd = .rdIbrd ∧ width = w.ibrd) ∨ (wr = .wrFbrd v ∧ rd = .rdFbrd ∧ width = w.fbrd) ∨
    (wr = .wrCr v ∧ rd = .rdCr ∧ width = w.cr) ∨ (wr = .wrIfls v ∧ rd = .rdIfls ∧ width = w.ifls) ∨
    (wr = .wrImsc v ∧ rd = .rdImsc ∧ width = w.imsc) →
    ∃ t u, exec wr s = .next t ∧ exec rd t = .next u ∧
      (∀ k, u.readData.getLsbD k = (decide (k < width) && v.getLsbD k)) ∧
      u.txFifo = s.txFifo ∧ u.rxFifo = s.rxFifo ∧ u.baudLatch = s.baudLatch ∧ u.lcrh = s.lcrh

/-- Bus writes to the read-only offsets and to ICR change no state (R93, R108, R109), on a good BASE (R41). -/
def Obligations.IgnoredWrites : Prop :=
  (∀ (s : State) (v : Word), s.baseOk = true →
    exec (.wrFr v) s = .next s ∧ exec (.wrRis v) s = .next s ∧ exec (.wrMis v) s = .next s ∧
    exec (.wrIcr v) s = .next s) ∧
  (∀ v : Word, encode Layout.default (.wrFr v) = some (0x1018#13 ++ v) ∧
    encode Layout.default (.wrRis v) = some (0x103C#13 ++ v) ∧
    encode Layout.default (.wrMis v) = some (0x1040#13 ++ v) ∧
    encode Layout.default (.wrIcr v) = some (0x1044#13 ++ v))

/-- The reads of RIS, MIS and ICR change nothing but the value read: RIS stays inside its effective bits, MIS inside
IMSC too (so 0 with IMSC = 0), ICR is any value (R106, R107, R110), on a good BASE (R41). -/
def Obligations.StatusReads : Prop :=
  (∀ s : State, s.baseOk = true → ∃ t, exec .rdRis s = .next t ∧
    t = { s with readData := t.readData, draws := t.draws } ∧
    ∀ k, t.readData.getLsbD k = true → k < s.params.layout.width.imsc) ∧
  (∀ s : State, s.baseOk = true → ∃ t, exec .rdMis s = .next t ∧
    t = { s with readData := t.readData, draws := t.draws } ∧
    (∀ k, t.readData.getLsbD k = true → k < s.params.layout.width.imsc ∧ s.imsc.getLsbD k = true) ∧
    (s.imsc = 0#32 → t.readData = 0#32)) ∧
  (∀ s : State, s.baseOk = true → ∃ t, exec .rdIcr s = .next t ∧
    t = { s with readData := t.readData, draws := t.draws }) ∧
  Layout.default.width.imsc = 11 ∧ encode Layout.default .rdRis = some 0x003C00000000#45 ∧
  encode Layout.default .rdMis = some 0x004000000000#45 ∧ encode Layout.default .rdIcr = some 0x004400000000#45

/-- A word-aligned access at any offset of the window that the map does not list is a reserved one, and has no
meaning: V_RESERVED_OFFSET (R111, R112). That it has this name on a bad BASE too, where R41 gives V_BAD_BASE, is the
model's choice (log 24). In the default layout these are all offsets but the eleven of R62. -/
def Obligations.ReservedAccessesRefused : Prop :=
  (∀ (s : State) (off : Offset) (v : Word),
    let L := s.params.layout
    off.toNat % 4 = 0 → off.toNat < L.blockSize → off ∉ L.off.list →
    decode L (transaction false off v) = .ok (.rdReserved off) ∧
    decode L (transaction true off v) = .ok (.wrReserved off v) ∧
    exec (.rdReserved off) s = .refused .reservedOffset ∧
    exec (.wrReserved off v) s = .refused .reservedOffset) ∧
  (∀ off : Offset, off ∉ Layout.default.off.list ↔ off.toNat ∉
    [0x000, 0x018, 0x024, 0x028, 0x02C, 0x030, 0x034, 0x038, 0x03C, 0x040, 0x044])

/-- A read of DR with bytes queued pops the oldest and returns it in [7:0], with zero at every position above that
is no error bit; RXFE becomes 1 exactly when it was the last, and a full FIFO is full no longer. With none queued it
pops nothing and returns a value that is zero at the same positions. Nothing else changes (R90). The error bits
stand at [11:8] by default (R66). On a good BASE (R41). -/
def Obligations.DataReadPopsOldest : Prop :=
  (∀ (s : State) (d : Byte) (rest : List Byte), s.params.layout.wf = true → s.baseOk = true →
    s.rxFifo = d :: rest →
    ∃ t, exec .rdDr s = .next t ∧
      t = { s with rxFifo := rest, readData := t.readData, draws := t.draws } ∧
      t.readData.setWidth 8 = d ∧
      (∀ k, 8 ≤ k → k ∉ s.params.layout.dr.list → t.readData.getLsbD k = false) ∧
      (t.rxfe = true ↔ rest = []) ∧ (s.rxff = true → t.rxff = false)) ∧
  (∀ s : State, s.baseOk = true → s.rxFifo = [] →
    ∃ t, exec .rdDr s = .next t ∧ t = { s with readData := t.readData, draws := t.draws } ∧
      ∀ k, 8 ≤ k → k ∉ s.params.layout.dr.list → t.readData.getLsbD k = false) ∧
  Layout.default.dr.list = [8, 9, 10, 11] ∧ encode Layout.default .rdDr = some 0x000000000000#45

/-- A write of DR pushes `v[7:0]` when there is room: then TXFE is 0, BUSY is 1, and TXFF is 1 exactly when
the last free entry was taken. It has no meaning when the FIFO is full. Nothing else changes (R91). On a good BASE
(R41). -/
def Obligations.DataWritePushesByte : Prop :=
  ∀ (s : State) (v : Word), s.baseOk = true →
    let cap := if s.lcrh.getLsbD s.params.layout.lcrh.fen then s.params.txDepth else 1
    (s.txFifo.length < cap →
      ∃ t, exec (.wrDr v) s = .next t ∧ t = { s with txFifo := s.txFifo ++ [v.setWidth 8] } ∧
        t.txfe = false ∧ t.busy = true ∧ (t.txff = true ↔ s.txFifo.length + 1 = cap)) ∧
    (¬ s.txFifo.length < cap → exec (.wrDr v) s = .refused .txOverflow) ∧
    encode Layout.default (.wrDr v) = some (0x1000#13 ++ v)

/-- A read of FR returns BUSY, RXFE, TXFF, RXFF, TXFE of this instant at their positions, anything at the four
modem bits, zero elsewhere, and changes nothing else (R92, R29 to R32); the default positions are those of R67. On
a good BASE (R41). -/
def Obligations.FlagReadIsDerived : Prop :=
  (∀ s : State, s.params.layout.wf = true → s.baseOk = true →
    let p := s.params.layout.fr
    let fen := s.lcrh.getLsbD s.params.layout.lcrh.fen
    let txCap := if fen then s.params.txDepth else 1
    let rxCap := if fen then s.params.rxDepth else 1
    ∃ t, exec .rdFr s = .next t ∧ t = { s with readData := t.readData, draws := t.draws } ∧
      (t.readData.getLsbD p.busy = true ↔ 0 < s.txFifo.length ∨ s.txShift ≠ none) ∧
      (t.readData.getLsbD p.rxfe = true ↔ s.rxFifo.length = 0) ∧
      (t.readData.getLsbD p.txff = true ↔ s.txFifo.length = txCap) ∧
      (t.readData.getLsbD p.rxff = true ↔ s.rxFifo.length = rxCap) ∧
      (t.readData.getLsbD p.txfe = true ↔ s.txFifo.length = 0) ∧
      (∀ k, k ∉ p.list → t.readData.getLsbD k = false)) ∧
  Layout.default.fr = ⟨0, 1, 2, 3, 4, 5, 6, 7, 8⟩ ∧ encode Layout.default .rdFr = some 0x001800000000#45

/-- A write of LCR_H: refused when FEN changes with bytes queued, then when it changes something with a
character in the shifter; otherwise the cell takes the effective bits, `v[7:0]` by default, the latch takes the two
divisor cells, and nothing else changes; TXFF and RXFF stay 0 when FEN changed (R99). On a good BASE (R41). -/
def Obligations.LineControlWrite : Prop :=
  (∀ (s : State) (v : Word), s.baseOk = true →
    let fen := s.params.layout.lcrh.fen
    let new : Word := BitVec.ofNat 32 (v.toNat % 2 ^ s.params.layout.width.lcrh)
    let fenBlocked := new.getLsbD fen ≠ s.lcrh.getLsbD fen ∧ (0 < s.txFifo.length ∨ 0 < s.rxFifo.length)
    let changes := new ≠ s.lcrh ∨ (⟨s.ibrd, s.fbrd⟩ : BaudLatch) ≠ s.baudLatch
    (fenBlocked → exec (.wrLcrh v) s = .refused .fenChangeNonempty) ∧
    (¬ fenBlocked → changes ∧ s.txShift ≠ none → exec (.wrLcrh v) s = .refused .reconfigInFlight) ∧
    (¬ fenBlocked → ¬ (changes ∧ s.txShift ≠ none) →
      ∃ t, exec (.wrLcrh v) s = .next t ∧
        t = { s with lcrh := new, baudLatch := ⟨s.ibrd, s.fbrd⟩ } ∧
        (new.getLsbD fen ≠ s.lcrh.getLsbD fen → 1 ≤ s.params.txDepth → 1 ≤ s.params.rxDepth →
          t.txff = false ∧ t.rxff = false))) ∧
  Layout.default.width.lcrh = 8 ∧ Layout.default.lcrh.fen = 4 ∧
  (∀ v : Word, encode Layout.default (.wrLcrh v) = some (0x102C#13 ++ v))

/-- A write of the LCR_H value already held, with a divisor unchanged since the last load, changes nothing
and is never refused (R99 a), on a good BASE (R41). -/
def Obligations.SameLineControlAccepted : Prop :=
  ∀ (s : State) (v : Word), s.baseOk = true →
    v.toNat % 2 ^ s.params.layout.width.lcrh = s.lcrh.toNat →
    s.baudLatch.ibrd = s.ibrd → s.baudLatch.fbrd = s.fbrd → exec (.wrLcrh v) s = .next s

/-- Only a write of LCR_H, by the bus master or in phase I2 of INIT, or a reset changes the divisor latch
(R27), and such a write loads both cells. -/
def Obligations.OnlyLineControlLoadsLatch : Prop :=
  ∀ (i : Instr) (s t : State), exec i s = .next t → t.baudLatch ≠ s.baudLatch →
    i = .reset ∨
    (((∃ v, i = .wrLcrh v) ∨ (∃ c b, i = .init c b ∧ s.call = some (.init c b .I2))) ∧
      t.baudLatch = ⟨s.ibrd, s.fbrd⟩)

/-- Each storage cell changes only by its own write, by the phase of INIT that writes it, or by a reset;
IFLS and IMSC never by INIT (R15 to R20, R196). -/
def Obligations.CellsChangeOnlyByTheirWrites : Prop :=
  ∀ (i : Instr) (s t : State), exec i s = .next t → i ≠ .reset →
    (t.ibrd ≠ s.ibrd → (∃ v, i = .wrIbrd v) ∨ ∃ c b, i = .init c b ∧
      (s.call = none ∨ s.call = some (.init c b .I0))) ∧
    (t.fbrd ≠ s.fbrd → (∃ v, i = .wrFbrd v) ∨ ∃ c b, i = .init c b ∧ s.call = some (.init c b .I1)) ∧
    (t.lcrh ≠ s.lcrh → (∃ v, i = .wrLcrh v) ∨ ∃ c b, i = .init c b ∧ s.call = some (.init c b .I2)) ∧
    (t.cr ≠ s.cr → (∃ v, i = .wrCr v) ∨ ∃ c b, i = .init c b ∧ s.call = some (.init c b .I3)) ∧
    (t.ifls ≠ s.ifls → ∃ v, i = .wrIfls v) ∧ (t.imsc ≠ s.imsc → ∃ v, i = .wrImsc v)

/-! ## The divisor calculator (R130 to R137) -/

/-- `BAUDDIV c, b` returns, for the clock `C` and the rate `B` its operands are in their widths, the divisor of
the machine's tie rule, and changes nothing else; under half-up that is the floor of `C / 16B` and the rounded
fraction masked to 6 bits; with `B = 0` it has no meaning (R131, R135, R136). That an operand wider than its
parameter is taken modulo its width is log 22. -/
def Obligations.BauddivReturnsParts : Prop :=
  (∀ (s : State) (c b : Nat),
    let C := c % 2 ^ s.params.layout.width.clk
    let B := b % 2 ^ s.params.layout.width.baud
    (B ≠ 0 → exec (.bauddiv c b) s = .next { s with divisor := baudDivisor s.params.tie C B }) ∧
    (B ≠ 0 → s.params.tie = .halfUp →
      exec (.bauddiv c b) s = .next { s with divisor :=
        ⟨C / (16 * B), ((8 * (C % (16 * B)) + B) / (2 * B)) % 64⟩ }) ∧
    (B = 0 → exec (.bauddiv c b) s = .refused .zeroBaud)) ∧
  Layout.default.width.clk = 32 ∧ Layout.default.width.baud = 32

/-- The integer arithmetic computes the definition over the rationals: with `D = C / 16B`, the integer part
is `floor D` and the fraction is `floor (64 (D - floor D) + 1/2)` masked to 6 bits (R130, R132). -/
def Obligations.BauddivIsRoundedQuotient : Prop :=
  ∀ c b : Nat, 1 ≤ b →
    let D : ℚ := (c : ℚ) / (16 * (b : ℚ))
    ((baudDivisor .halfUp c b).int : ℤ) = ⌊D⌋ ∧
    ((baudDivisor .halfUp c b).frac : ℤ) = ⌊64 * (D - (⌊D⌋ : ℚ)) + 1 / 2⌋ % 64

/-- The laws of R137: the fraction fits 6 bits, the integer part is the floor, exact multiples have
fraction 0, and the programmed divisor is within 1/128 of `D` unless the rounded fraction is 64. -/
def Obligations.BauddivLaws : Prop :=
  ∀ (tie : TieRule) (c b : Nat), 1 ≤ b →
    let d := baudDivisor tie c b
    let D : ℚ := (c : ℚ) / (16 * (b : ℚ))
    let programmed : ℚ := (d.int : ℚ) + (d.frac : ℚ) / 64
    d.frac ≤ 63 ∧ d.int * (16 * b) ≤ c ∧ c < (d.int + 1) * (16 * b) ∧
    (16 * b ∣ c → d.frac = 0 ∧ d.int = c / (16 * b)) ∧
    (roundFraction tie (c % (16 * b)) b < 64 → |programmed - D| ≤ 1 / 128) ∧
    (roundFraction tie (c % (16 * b)) b = 64 → 127 / 128 ≤ D - programmed ∧ D - programmed < 1)

/-- The missing carry: when the fraction rounds to 64 the fraction is 0 and the integer part stays the
floor; that happens exactly from `r / 16B ≥ 127/128` on, and only for `B ≥ 8` (R133). -/
def Obligations.BauddivDropsCarry : Prop :=
  ∀ c b : Nat, 1 ≤ b →
    let r := c % (16 * b)
    (roundFraction .halfUp r b = 64 ↔ 127 * (16 * b) ≤ 128 * r) ∧
    (127 * (16 * b) ≤ 128 * r →
      8 ≤ b ∧ baudDivisor .halfUp c b = ⟨c / (16 * b), 0⟩ ∧ baudDivisor .halfEven c b = ⟨c / (16 * b), 0⟩)

/-- The two tie rules differ only on exact ties, that is when `8r / B` is an odd integer; there half-up is
the upper neighbour and half-even the even one (R132). -/
def Obligations.TieRulesDifferOnlyOnTies : Prop :=
  ∀ r b : Nat, 1 ≤ b →
    ((¬ ∃ m, 8 * r = (2 * m + 1) * b) → roundFraction .halfUp r b = roundFraction .halfEven r b) ∧
    (∀ m, 8 * r = (2 * m + 1) * b →
      roundFraction .halfUp r b = m + 1 ∧
      roundFraction .halfEven r b = (if m % 2 = 0 then m else m + 1))

/-! ## Initialization (R140 to R148) -/

/-- The four phases of INIT: IBRD, FBRD, LCR_H, CR, each with its whole word (`LCRH_INIT` and `CR_INIT`, 0x70 and
0x301 by default), then done; a zero baud rate has no meaning before any write (R140 to R142, R72, R73). On a good
BASE (R41, R143). -/
def Obligations.InitPhases : Prop :=
  (∀ (s : State) (c b : Nat),
    let L := s.params.layout
    let B := b % 2 ^ L.width.baud
    let d := baudDivisor s.params.tie (c % 2 ^ L.width.clk) B
    let i : Word := BitVec.ofNat 32 (d.int % 2 ^ L.width.ibrd)
    let f : Word := BitVec.ofNat 32 (d.frac % 2 ^ L.width.fbrd)
    (B = 0 → exec (.init c b) s = .refused .zeroBaud) ∧
    (B ≠ 0 → L.wf = true → s.baseOk = true →
      (s.call = none →
        exec (.init c b) s = .next { s with divisor := d, ibrd := i, call := some (.init c b .I1) }) ∧
      (s.call = some (.init c b .I0) →
        exec (.init c b) s = .next { s with ibrd := i, call := some (.init c b .I1) }) ∧
      (s.call = some (.init c b .I1) →
        exec (.init c b) s = .next { s with fbrd := f, call := some (.init c b .I2) }) ∧
      (s.call = some (.init c b .I2) →
        s.lcrh.getLsbD L.lcrh.fen = true ∨ (s.txFifo = [] ∧ s.rxFifo = []) →
        s.txShift = none ∨ (s.lcrh = lcrhInit L ∧ s.baudLatch = ⟨s.ibrd, s.fbrd⟩) →
        exec (.init c b) s = .next { s with
          lcrh := lcrhInit L, baudLatch := ⟨s.ibrd, s.fbrd⟩, call := some (.init c b .I3) }) ∧
      (s.call = some (.init c b .I3) →
        exec (.init c b) s = .next { s with cr := crInit L, call := none }))) ∧
  lcrhInit Layout.default = 0x70#32 ∧ crInit Layout.default = 0x301#32

/-- The state INIT leaves when it ends, whatever hardware steps ran between its writes (R144): the divisor in cells
and latch, WLEN the 8-bit code and FEN set with every other bit of LCR_H clear, UARTEN, TXE and RXE set with every
other bit of CR clear (R72, R73). -/
def Obligations.InitFinalState : Prop :=
  ∀ (s t : State) (c b : Nat) (base : Option Nat) (rest : List Item) (h1 h2 h3 ts : List Turn),
    s.params.layout.wf = true → (∀ x ∈ h1 ++ h2 ++ h3, x.isHardware = true) →
    s.call = none → s.program = ⟨base, .call (.init c b)⟩ :: rest →
    s.schedule = .master :: h1 ++ .master :: h2 ++ .master :: h3 ++ .master :: ts →
    run (h1.length + h2.length + h3.length + 4) s = .next t →
    let L := s.params.layout
    let B := b % 2 ^ L.width.baud
    let d := baudDivisor s.params.tie (c % 2 ^ L.width.clk) B
    let i : Word := BitVec.ofNat 32 (d.int % 2 ^ L.width.ibrd)
    let f : Word := BitVec.ofNat 32 (d.frac % 2 ^ L.width.fbrd)
    t.call = none ∧ t.program = rest ∧ t.schedule = ts ∧ t.divisor = d ∧
    t.ibrd = i ∧ t.fbrd = f ∧ t.baudLatch = ⟨i, f⟩ ∧
    (∀ k, t.lcrh.getLsbD k = true ↔
      k = L.lcrh.fen ∨ (k = L.lcrh.wlen ∧ L.lcrh.wlen8.getLsbD 0 = true) ∨
        (k = L.lcrh.wlen + 1 ∧ L.lcrh.wlen8.getLsbD 1 = true)) ∧
    (∀ k, t.cr.getLsbD k = true ↔ k = L.cr.uarten ∨ k = L.cr.txe ∨ k = L.cr.rxe) ∧
    t.txCap = s.params.txDepth ∧ t.rxCap = s.params.rxDepth ∧ t.ifls = s.ifls ∧ t.imsc = s.imsc ∧
    t.returned = s.returned ∧ sentStream t = sentStream s

/-- A second INIT with the same arguments is never refused, whatever the queues and the shifter hold, and
leaves every cell and the latch as they were (R146): with four turns of the bus master in a row nothing else moves
either, and with any hardware steps between its writes (R51), in an admitted configuration, no byte on its way out
is lost and none in the receive FIFO. -/
def Obligations.InitIsIdempotent : Prop :=
  ∀ (s : State) (c b : Nat) (base : Option Nat) (rest : List Item),
    let L := s.params.layout
    let B := b % 2 ^ L.width.baud
    let d := baudDivisor s.params.tie (c % 2 ^ L.width.clk) B
    let i : Word := BitVec.ofNat 32 (d.int % 2 ^ L.width.ibrd)
    let f : Word := BitVec.ofNat 32 (d.frac % 2 ^ L.width.fbrd)
    L.wf = true → B ≠ 0 → (s.setBase base).baseOk = true → s.call = none →
    s.program = ⟨base, .call (.init c b)⟩ :: rest →
    s.ibrd = i → s.fbrd = f → s.lcrh = lcrhInit L → s.cr = crInit L → s.baudLatch = ⟨i, f⟩ →
    (∀ ts, s.schedule = .master :: .master :: .master :: .master :: ts →
      run 4 s = .next { s.setBase base with divisor := d, program := rest, schedule := ts }) ∧
    (∀ h1 h2 h3 ts : List Turn, s.lineAdmitted = true → (∀ x ∈ h1 ++ h2 ++ h3, x.isHardware = true) →
      s.schedule = .master :: h1 ++ .master :: h2 ++ .master :: h3 ++ .master :: ts →
      ∃ t, run (h1.length + h2.length + h3.length + 4) s = .next t ∧
        t = { s.setBase base with
          divisor := d, program := rest, schedule := ts
          txFifo := t.txFifo, rxFifo := t.rxFifo, txShift := t.txShift, wireOut := t.wireOut } ∧
        sentStream t = sentStream s ∧ t.txFifo <:+ s.txFifo ∧ s.rxFifo <+: t.rxFifo)

/-- Phase I2 of INIT is refused when FEN would go from 0 to 1 with a byte queued (R213), and when the
divisor or LCR_H would change with a character in the shifter (R147). -/
def Obligations.InitRefusedWhileBusy : Prop :=
  ∀ (s : State) (c b : Nat),
    let L := s.params.layout
    L.wf = true → b % 2 ^ L.width.baud ≠ 0 → s.baseOk = true → s.call = some (.init c b .I2) →
    (s.lcrh.getLsbD L.lcrh.fen = false → s.txFifo ≠ [] ∨ s.rxFifo ≠ [] →
      exec (.init c b) s = .refused .fenChangeNonempty) ∧
    (s.lcrh.getLsbD L.lcrh.fen = true ∨ (s.txFifo = [] ∧ s.rxFifo = []) → s.txShift ≠ none →
      s.lcrh ≠ lcrhInit L ∨ s.baudLatch ≠ ⟨s.ibrd, s.fbrd⟩ →
      exec (.init c b) s = .refused .reconfigInFlight)

/-- INIT from the reset state of the block (log 5), in the default layout, with the source's numbers ends with
divisor (27, 8), LCR_H 0x70, CR 0x0301 (R148; the source's scenario of 50,000,000 Hz and 115,200 baud). -/
def Obligations.InitWorkedExample : Prop :=
  ∀ (s : State) (base : Option Nat) (rest : List Item) (ts : List Turn),
    atReset s → s.params.layout = Layout.default → s.params.resetState = ResetState.default →
    s.params.tie = .halfUp → (s.setBase base).baseOk = true →
    s.program = ⟨base, .call (.init 50000000 115200)⟩ :: rest →
    s.schedule = .master :: .master :: .master :: .master :: ts →
    run 4 s = .next { s.setBase base with
      divisor := ⟨27, 8⟩, ibrd := 27#32, fbrd := 8#32, lcrh := 0x70#32, cr := 0x0301#32
      baudLatch := ⟨27#32, 8#32⟩, program := rest, schedule := ts }

/-! ## Transfers (R150 to R159) -/

/-- WRITE_BYTE: in POLL it reads FR, changes nothing of the block, and goes to ACT exactly when the TXFF bit
of the value read is 0; in ACT it writes the byte to DR once and is done (R150). With no room in ACT, which
R155 rules out, it is V_TX_OVERFLOW (log 26). On a good BASE (R41). -/
def Obligations.WriteBytePhases : Prop :=
  ∀ (s : State) (b : Byte), s.params.layout.wf = true → s.baseOk = true →
    (s.call = none ∨ s.call = some (.writeByte b .POLL) →
      ∃ t, exec (.writeByte b) s = .next t ∧
        t = { s with readData := t.readData, draws := t.draws,
                     call := some (.writeByte b (if t.readData.getLsbD s.params.layout.fr.txff then .POLL else .ACT)) } ∧
        ∃ u, exec .rdFr s = .next u ∧ t.readData = u.readData) ∧
    (s.call = some (.writeByte b .ACT) → s.txFifo.length < s.txCap →
      exec (.writeByte b) s = .next { s with txFifo := s.txFifo ++ [b], call := none }) ∧
    (s.call = some (.writeByte b .ACT) → ¬ s.txFifo.length < s.txCap →
      exec (.writeByte b) s = .refused .txOverflow)

/-- READ_BYTE: in POLL it reads FR, changes nothing of the block, and goes to ACT exactly when the RXFE bit of
the value read is 0; in ACT it reads DR once, returns bits [7:0] of the value read, and is done: the byte
is the oldest received (R151). On a good BASE (R41). -/
def Obligations.ReadBytePhases : Prop :=
  ∀ s : State, s.params.layout.wf = true → s.baseOk = true →
    (s.call = none ∨ s.call = some (.readByte .POLL) →
      ∃ t, exec .readByte s = .next t ∧
        t = { s with readData := t.readData, draws := t.draws,
                     call := some (.readByte (if t.readData.getLsbD s.params.layout.fr.rxfe then .POLL else .ACT)) } ∧
        ∃ u, exec .rdFr s = .next u ∧ t.readData = u.readData) ∧
    (s.call = some (.readByte .ACT) →
      ∃ t, exec .readByte s = .next t ∧
        t = { s with rxFifo := s.rxFifo.tail, returned := s.returned ++ [t.readData.setWidth 8],
                     readData := t.readData, draws := t.draws, call := none } ∧
        ∀ d rest, s.rxFifo = d :: rest → t.readData.setWidth 8 = d)

/-- WRITE_BYTES and WRITE_STR: an empty sequence makes no access; in POLL and ACT the current byte is handled
as in WRITE_BYTE, and after ACT the next byte starts in POLL or the operation is done; WRITE_STR sends the
encoding of its text (R152, R153). With no room in ACT, which R155 rules out, it is V_TX_OVERFLOW (log 26);
an index past the end, which no run reaches, is the end of the operation. -/
def Obligations.WriteSequencePhases : Prop :=
  ∀ (s : State) (bytes : List Byte) (i : Instr) (at_ : Nat → XferPhase → Call),
    (i = .writeBytes bytes ∧ at_ = Call.writeBytes bytes) ∨
      (∃ text, i = .writeStr text ∧ at_ = Call.writeStr text ∧ bytes = s.params.encode text) →
    (bytes = [] → s.call = none → exec i s = .next s) ∧
    (s.params.layout.wf = true → s.baseOk = true → ∀ k, k < bytes.length → (s.call = none ∧ k = 0) ∨ s.call = some (at_ k .POLL) →
      ∃ t, exec i s = .next t ∧
        t = { s with readData := t.readData, draws := t.draws,
                     call := some (at_ k (if t.readData.getLsbD s.params.layout.fr.txff then .POLL else .ACT)) } ∧
        ∃ u, exec .rdFr s = .next u ∧ t.readData = u.readData) ∧
    (s.baseOk = true → ∀ k b, bytes[k]? = some b → s.call = some (at_ k .ACT) →
      s.txFifo.length < s.txCap →
      exec i s = .next { s with
        txFifo := s.txFifo ++ [b]
        call := if k + 1 < bytes.length then some (at_ (k + 1) .POLL) else none }) ∧
    (s.baseOk = true → ∀ k, k < bytes.length → s.call = some (at_ k .ACT) → ¬ s.txFifo.length < s.txCap →
      exec i s = .refused .txOverflow) ∧
    (∀ k ph, bytes.length ≤ k → s.call = some (at_ k ph) → exec i s = .next { s with call := none })

/-- The default text encoding is UTF-8 (R153): it is Lean's own, a character below 0x80 is the one byte of its
value, and a line feed is 0x0A alone. Under every `ENCODE` a text is the encodings of its characters in order, and a
character is encoded as the table says, or as UTF-8 (log 16). -/
def Obligations.TextEncodingIsUtf8 : Prop :=
  (∀ c : Char, encodeChar Params.default.encodeTable c = (String.utf8EncodeChar c).map UInt8.toBitVec) ∧
  (∀ c : Char, c.toNat < 0x80 → encodeChar Params.default.encodeTable c = [BitVec.ofNat 8 c.toNat]) ∧
  Params.default.encode ['A', '\n'] = [0x41#8, 0x0A#8] ∧
  (∀ (p : Params) (s u : List Char), p.encode (s ++ u) = p.encode s ++ p.encode u) ∧
  (∀ (p : Params) (c : Char), p.encode [c] = ((p.encodeTable.lookup c).getD (encodeChar [] c)))

/-- A driver operation's step is the register access of its phase, with only the operation's own record
(phase, divisor, returned bytes) beside it (R77, R140, R150 to R153). -/
def Obligations.DriverStepsAreRegisterAccesses : Prop :=
  ∀ (i : Instr) (s t : State), exec i s = .next t →
    (∃ c b, i = .init c b) ∨ (∃ b, i = .writeByte b) ∨ i = .readByte ∨ (∃ bs, i = .writeBytes bs) ∨
      (∃ text, i = .writeStr text) →
    (∀ a, busAccess i s = some a → ∃ u, exec a s = .next u ∧ t.accessView = u.accessView) ∧
    (busAccess i s = none → t = { s with call := none })

/-- A running operation is never refused in a state that meets the invariants, on a good BASE (R41), but for the
write of LCR_H of INIT: WRITE_BYTE finds room for the byte it announced (R155), READ_BYTE a byte to pop (R156). -/
def Obligations.RunningCallsNeverRefused : Prop :=
  ∀ (s : State) (c : Call), Inv s → s.baseOk = true → s.call = some c → (∀ c' b', c ≠ .init c' b' .I2) →
    ∃ t, exec c.instr s = .next t ∧
      (c.aboutToWrite = true → t.txFifo.length = s.txFifo.length + 1) ∧
      (c = .readByte .ACT → ∃ d, s.rxFifo = d :: t.rxFifo ∧ t.returned = s.returned ++ [d])

/-- Two callers interleave on one instance (R52, R199): a word, an access or a driver call of another context in the
middle of an operation is V_SHARED_ACCESS, the same operation again included; and exec of a driver operation that
meets a different running one is too. A divisor calculation or the construction of an instance, which access
nothing, run all the same, with the running operation and its BASE untouched (log 12). -/
def Obligations.InterleavedCallsRefused : Prop :=
  (∀ (s : State) (ts : List Turn) (item : Item) (c : Call),
    s.schedule = .context item :: ts → s.call = some c →
    ((∀ c' b', item.request ≠ .call (.bauddiv c' b')) → (∀ base, item.request ≠ .call (.bind base)) →
      step s = .refused .sharedAccess) ∧
    (∀ c' b', item.request = .call (.bauddiv c' b') → step s = exec (.bauddiv c' b') { s with schedule := ts }) ∧
    (∀ base, item.request = .call (.bind base) → step s = exec (.bind base) { s with schedule := ts })) ∧
  (∀ (s : State) (c : Call) (op : DriverOp), s.call = some c → op.instr ≠ c.instr →
    (∀ c' b', op ≠ .bauddiv c' b') → (∀ base, op ≠ .bind base) →
    (∀ c' b', op = .init c' b' → b' % 2 ^ s.params.layout.width.baud ≠ 0) →
    exec op.instr s = .refused .sharedAccess)

/-- On a bad BASE no register access has a meaning: not one of the bus master (any read or write of a listed
register), not one of a driver operation, whether it starts or runs (R41, R192). BASE is good exactly when it is
where the block is mapped, a multiple of 4, and bound at most once (log 10). A reserved offset is refused as such
before BASE is looked at (log 24). -/
def Obligations.BadBaseRefusesDriver : Prop :=
  (∀ s : State, s.baseOk = true ↔ s.base = s.blockBase ∧ s.base % 4 = 0 ∧ s.bindings.count s.base ≤ 1) ∧
  (∀ (s : State) (i : Instr), s.baseOk = false → (encode s.params.layout i).isSome = true →
    (∀ off, i ≠ .rdReserved off) → (∀ off v, i ≠ .wrReserved off v) → exec i s = .refused .badBase) ∧
  (∀ (s : State) (c : Call), s.baseOk = false → s.call = some c → c.wf s.params = true →
    exec c.instr s = .refused .badBase) ∧
  ∀ (s : State) (op : DriverOp), s.baseOk = false → s.call = none →
    (∃ c b, op = .init c b ∧ b % 2 ^ s.params.layout.width.baud ≠ 0) ∨ (∃ b, op = .writeByte b) ∨
      op = .readByte ∨ (∃ bytes, op = .writeBytes bytes ∧ bytes ≠ []) ∨
      (∃ text, op = .writeStr text ∧ s.params.encode text ≠ []) →
    exec op.instr s = .refused .badBase

/-- Bytes are neither lost, duplicated nor reordered on their way out: whatever step is taken, other than a
reset, what was accepted followed by what the running operation has yet to write grows at the end by
exactly the bytes newly asked for, and what was accepted only grows (R152, R158, R177). -/
def Obligations.SentBytesConserved : Prop :=
  ∀ s t : State, step s = .next t → s.turn ≠ .reset →
    sentStream t ++ pendingBytes t = sentStream s ++ pendingBytes s ++ issuedBytes s ∧
    sentStream s <+: sentStream t

/-- A send operation that runs to its end has put exactly its remaining bytes, in order, at the end of what
was accepted, whatever the schedule and however often it polled (R152, R158). -/
def Obligations.SendWritesExactlyItsBytes : Prop :=
  ∀ (n : Nat) (s t : State) (c : Call), s.call = some c → run n s = .next t → t.call = none →
    (∀ k < n, ∀ u, run k s = .next u → u.call ≠ none ∧ u.turn ≠ .reset) →
    sentStream t = sentStream s ++ c.pending s.params

/-- Bytes are received in arrival order: an arrival adds at most its byte at the end of what was received, a
read of DR outside the driver takes the oldest, and no other step but a reset changes it (R156, R177). -/
def Obligations.ReceivedBytesConserved : Prop :=
  ∀ s t : State, Inv s → step s = .next t → s.turn ≠ .reset →
    (∀ d, s.turn = .rxArrive d →
      receivedStream t = receivedStream s ++ [d] ∨ receivedStream t = receivedStream s) ∧
    ((∀ d, s.turn ≠ .rxArrive d) → issued? s ≠ some .rdDr → receivedStream t = receivedStream s) ∧
    (issued? s = some .rdDr → t.returned = s.returned ∧ t.rxFifo = s.rxFifo.tail)

/-- WRITE_BYTE ends under any schedule that gives the transmitter TX_DONE and TX_LOAD and then the bus master
two turns, in that order and with any other turns of the sole owner or the hardware between, while the transmitter is
enabled and the configuration admitted; the byte is then accepted exactly once (R157). -/
def Obligations.WriteByteEndsUnderFairTurns : Prop :=
  ∀ (s : State) (b : Byte) (ph : XferPhase) (ts rest : List Turn),
    Inv s → s.baseOk = true → s.call = some (.writeByte b ph) → s.schedule = ts ++ rest →
    (∀ x ∈ ts, x.isQuiet = true) →
    s.cr.getLsbD s.params.layout.cr.uarten = true → s.cr.getLsbD s.params.layout.cr.txe = true →
    s.lineAdmitted = true → [Turn.txDone, .txLoad, .master, .master].Sublist ts →
    ∃ n t, n ≤ ts.length ∧ run n s = .next t ∧ t.call = none ∧ sentStream t = sentStream s ++ [b]

/-- A poll loop need never end. A send operation that polls with the FIFO full and the transmitter disabled still
polls after any number of turns of the sole owner and the hardware, and so does READ_BYTE with an empty receive FIFO
and no byte received: every step answers, and no byte is accepted or taken (R157, R194, R219). The turns are any
that R176 does not refuse: an arrival with the receiver enabled, and TX_LOAD with the transmitter enabled, come only
in an admitted configuration. -/
def Obligations.PollLoopsMayNeverEnd : Prop :=
  (∀ (s : State) (c : Call) (ts rest : List Turn),
    (∃ b, c = .writeByte b .POLL) ∨ (∃ bytes i, c = .writeBytes bytes i .POLL) ∨
      (∃ text i, c = .writeStr text i .POLL) →
    Inv s → s.baseOk = true → s.call = some c → s.txFifo.length = s.txCap →
    s.cr.getLsbD s.params.layout.cr.uarten = false ∨ s.cr.getLsbD s.params.layout.cr.txe = false →
    s.schedule = ts ++ rest → (∀ x ∈ ts, x.isQuiet = true) →
    arrivals ts = [] ∨ s.rxEnabled = false ∨ s.lineAdmitted = true →
    ∃ t, run ts.length s = .next t ∧ t.call = some c ∧ t.txFifo = s.txFifo ∧ t.program = s.program ∧
      t.schedule = rest) ∧
  (∀ (s : State) (ts rest : List Turn),
    Inv s → s.baseOk = true → s.call = some (.readByte .POLL) → s.rxFifo = [] → s.schedule = ts ++ rest →
    (∀ x ∈ ts, x.isQuiet = true) → arrivals ts = [] ∨ s.rxEnabled = false →
    Turn.txLoad ∉ ts ∨ s.cr.getLsbD s.params.layout.cr.uarten = false ∨
      s.cr.getLsbD s.params.layout.cr.txe = false ∨ s.lineAdmitted = true →
    ∃ t, run ts.length s = .next t ∧ t.call = some (.readByte .POLL) ∧ t.rxFifo = [] ∧
      t.returned = s.returned ∧ t.program = s.program ∧ t.schedule = rest)

/-- READ_BYTE ends once a byte arrives with the receiver enabled and the configuration admitted and the bus
master has two turns after it, with any other turns of the sole owner or the hardware between; it returns the oldest
byte: the head of the receive FIFO, or, when that is empty, the first byte that arrives (R151, R157). -/
def Obligations.ReadByteEndsOnArrival : Prop :=
  ∀ (s : State) (d : Byte) (ph : XferPhase) (ts rest : List Turn),
    Inv s → s.baseOk = true → s.call = some (.readByte ph) → s.schedule = ts ++ rest →
    (∀ x ∈ ts, x.isQuiet = true) →
    s.cr.getLsbD s.params.layout.cr.uarten = true → s.cr.getLsbD s.params.layout.cr.rxe = true →
    s.lineAdmitted = true → [Turn.rxArrive d, .master, .master].Sublist ts →
    ∃ n t x, n ≤ ts.length ∧ run n s = .next t ∧ t.call = none ∧ t.returned = s.returned ++ [x] ∧
      (s.rxFifo ++ arrivals ts).head? = some x

/-- Round trip through a loopback peer (R179, R51). From an enabled, admitted and empty block, a program that writes
a sequence, no longer than the receive FIFO, and then reads as many bytes: under every schedule in which each arrival
is the next byte of the wire not yet echoed, what READ_BYTE returned is at every point the beginning of the sequence,
and the whole of it when the program has ended. Under the eager schedule (each byte polled, written, loaded, sent and
echoed before the next, then the reads) the program does end, after seven turns for each byte. -/
def Obligations.LoopbackRoundTrip : Prop :=
  ∀ (s : State) (bytes : List Byte) (rest : List Item) (ts later : List Turn),
    Inv s → s.call = none → (s.setBase none).baseOk = true → s.lineAdmitted = true →
    s.cr.getLsbD s.params.layout.cr.uarten = true → s.cr.getLsbD s.params.layout.cr.txe = true →
    s.cr.getLsbD s.params.layout.cr.rxe = true →
    s.txFifo = [] → s.txShift = none → s.rxFifo = [] → bytes.length ≤ s.rxCap →
    s.program = ⟨none, .call (.writeBytes bytes)⟩ ::
      List.replicate bytes.length ⟨none, .call .readByte⟩ ++ rest →
    (rest = [] → s.schedule = ts ++ later → (∀ x ∈ ts, x.isQuiet = true) →
      (∀ k d u, ts[k]? = some (.rxArrive d) → run k s = .next u →
        u.wireOut[s.wireOut.length + (arrivals (ts.take k)).length]? = some d) →
      ∃ t, run ts.length s = .next t ∧ (∃ k, t.returned = s.returned ++ bytes.take k) ∧
        (t.call = none → t.program = [] → t.returned = s.returned ++ bytes)) ∧
    (bytes ≠ [] →
      s.schedule = bytes.flatMap (fun b => [.master, .master, .txLoad, .txDone, .rxArrive b]) ++
        List.replicate (2 * bytes.length) .master ++ ts →
      ∃ t, run (7 * bytes.length) s = .next t ∧ t.returned = s.returned ++ bytes ∧
        t.wireOut = s.wireOut ++ bytes ∧ t.txFifo = [] ∧ t.txShift = none ∧ t.rxFifo = [] ∧
        t.call = none ∧ t.program = rest ∧ t.schedule = ts)

/-! ## The line side (R170 to R176) -/

/-- TX_LOAD: when enabled and admitted the oldest byte moves from the FIFO to the shifter and nothing else
changes; in a configuration that is not admitted it has no meaning (R170, R176). Not enabled, it changes
nothing (log 9). -/
def Obligations.TxLoadMovesOldest : Prop :=
  ∀ s : State,
    let p := s.params.layout.cr
    let guard := s.cr.getLsbD p.uarten = true ∧ s.cr.getLsbD p.txe = true ∧ s.txShift = none ∧
      0 < s.txFifo.length
    (guard → s.lineAdmitted = true → ∀ b rest, s.txFifo = b :: rest →
      exec .txLoad s = .next { s with txShift := some b, txFifo := rest }) ∧
    (guard → s.lineAdmitted = false → exec .txLoad s = .refused .lineConfig) ∧
    (¬ guard → exec .txLoad s = .next s)

/-- TX_DONE: the character in the shifter is appended to the wire whatever the enables are, and the shifter is
empty (R171). With an empty shifter nothing changes (log 9). -/
def Obligations.TxDoneCompletesCharacter : Prop :=
  ∀ s : State,
    (∀ b, s.txShift = some b →
      exec .txDone s = .next { s with wireOut := s.wireOut ++ [b], txShift := none }) ∧
    (s.txShift = none → exec .txDone s = .next s)

/-- RX_ARRIVE: received at the end of the FIFO when enabled, admitted and there is room, with RXFE then 0 and
RXFF 1 exactly when the push filled the FIFO; lost when full or disabled; no meaning when enabled in a configuration
that is not admitted (R172 to R174). -/
def Obligations.RxArriveReceivesOrLoses : Prop :=
  ∀ (s : State) (d : Byte),
    let p := s.params.layout.cr
    let enabled := s.cr.getLsbD p.uarten = true ∧ s.cr.getLsbD p.rxe = true
    let cap := if s.lcrh.getLsbD s.params.layout.lcrh.fen then s.params.rxDepth else 1
    (enabled → s.lineAdmitted = true → s.rxFifo.length < cap →
      ∃ t, exec (.rxArrive d) s = .next t ∧ t = { s with rxFifo := s.rxFifo ++ [d] } ∧
        t.rxfe = false ∧ (t.rxff = true ↔ s.rxFifo.length + 1 = cap)) ∧
    (enabled → s.lineAdmitted = true → ¬ s.rxFifo.length < cap → exec (.rxArrive d) s = .next s) ∧
    (enabled → s.lineAdmitted = false → exec (.rxArrive d) s = .refused .lineConfig) ∧
    (¬ enabled → exec (.rxArrive d) s = .next s)

/-- The fair drain (R177, R178, R223). In every infinite execution that is weakly fair to the transmitter, with the
transmitter enabled and the configuration admitted throughout, no reset and no further write of DR, a point comes
where everything accepted at its start is on the wire, in order, and BUSY is 0; the bus master may do anything else.
And, counted in turns: among hardware steps it is enough that every queued byte and the shifter have their TX_DONE
and TX_LOAD in turn. -/
def Obligations.FairDrainReachesTheWire : Prop :=
  (∀ ρ : Nat → State, Execution ρ → Fair ρ →
    (∀ n, crUarten (ρ n).params.layout (ρ n).cr = true ∧ crTxe (ρ n).params.layout (ρ n).cr = true ∧
      (ρ n).lineAdmitted = true ∧ (ρ n).turn ≠ .reset ∧ writesDr (ρ n) = false) →
    ∃ n, (ρ n).txFifo = [] ∧ (ρ n).txShift = none ∧ (ρ n).wireOut = sentStream (ρ 0) ∧
      (ρ n).busy = false) ∧
  (∀ (s : State) (ts rest : List Turn),
    s.schedule = ts ++ rest → (∀ x ∈ ts, x.isHardware = true) →
    crUarten s.params.layout s.cr = true → crTxe s.params.layout s.cr = true → s.lineAdmitted = true →
    (List.replicate (s.txFifo.length + 1) [Turn.txDone, Turn.txLoad]).flatten.Sublist ts →
    ∃ t, run ts.length s = .next t ∧ t.txFifo = [] ∧ t.txShift = none ∧ t.wireOut = sentStream s ∧
      t.busy = false ∧ t.call = s.call ∧ t.program = s.program ∧ t.schedule = rest)

/-- The admitted configurations: WLEN the code of 8 bits, BRK = 0, no effective bit of CR other than UARTEN, TXE and
RXE set, latched integer divisor at least 1; by default WLEN = 0b11 and CR & 0xFCFE = 0. PEN, EPS, SPS, STP2 and FEN
do not matter (R176). -/
def Obligations.AdmittedConfigurations : Prop :=
  (∀ s : State,
    let L := s.params.layout
    (s.lineAdmitted = true ↔
      s.lcrh.extractLsb' L.lcrh.wlen 2 = L.lcrh.wlen8 ∧ s.lcrh.getLsbD L.lcrh.brk = false ∧
      (∀ k, k < L.width.cr → s.cr.getLsbD k = true → k = L.cr.uarten ∨ k = L.cr.txe ∨ k = L.cr.rxe) ∧
      1 ≤ s.baudLatch.ibrd.toNat) ∧
    (L = Layout.default → (s.lineAdmitted = true ↔
      s.lcrh.extractLsb' 5 2 = 0b11#2 ∧ s.lcrh.getLsbD 0 = false ∧ s.cr &&& 0xFCFE#32 = 0#32 ∧
      1 ≤ s.baudLatch.ibrd.toNat))) ∧
  (∀ (s : State) (v : Word),
    let p := s.params.layout.lcrh
    s.params.layout.wf = true → (∀ k, v.getLsbD k = true → k ∈ [p.pen, p.eps, p.sps, p.stp2, p.fen]) →
    { s with lcrh := s.lcrh ^^^ v }.lineAdmitted = s.lineAdmitted)

/-! ## Reset and binding (R38, R210, R212) -/

/-- RESET gives the block its `RESET_STATE`: cells, latch, queues, shifter; the log starts anew (log 6), no operation
runs; the bus master's own data and the parameters stay (log 7). By default that is the table of R38 (the spec's
adopted values, log 5), and right after it, in the default layout and on a good BASE, the derived part of FR reads
0x90 and DR reads below 0x1000. -/
def Obligations.ResetRestoresBlock : Prop :=
  (∀ s : State,
    let z := s.params.resetState
    exec .reset s = .next { s with
      ibrd := z.ibrd, fbrd := z.fbrd, lcrh := z.lcrh, cr := z.cr, ifls := z.ifls, imsc := z.imsc
      baudLatch := z.baudLatch, txFifo := z.txFifo, rxFifo := z.rxFifo, txShift := z.txShift
      wireOut := [], call := none }) ∧
  ResetState.default = ⟨0x0000#32, 0x00#32, 0x00#32, 0x0300#32, 0x12#32, 0x000#32, ⟨0#32, 0#32⟩, [], [], none⟩ ∧
  (∀ s t : State, s.params.layout = Layout.default → s.params.resetState = ResetState.default →
    s.baseOk = true → exec .reset s = .next t →
    (∃ u, exec .rdFr t = .next u ∧ u.readData &&& 0xFFFFFEF8#32 = 0x90#32) ∧
    (∃ u, exec .rdDr t = .next u ∧ u.readData.toNat < 0x1000))

/-- The state right after reset holds the values of R38 (the spec's adopted values, log 5), is a reset state of the
block, and meets the invariants (R35); the default parameters are those of R4. -/
def Obligations.InvariantHoldsAtReset : Prop :=
  State.reset.ibrd = 0x0000#32 ∧ State.reset.fbrd = 0x00#32 ∧ State.reset.lcrh = 0x00#32 ∧
  State.reset.cr = 0x0300#32 ∧ State.reset.ifls = 0x12#32 ∧ State.reset.imsc = 0x000#32 ∧
  State.reset.baudLatch = ⟨0#32, 0#32⟩ ∧ State.reset.txFifo = [] ∧ State.reset.rxFifo = [] ∧
  State.reset.txShift = none ∧ State.reset.wireOut = [] ∧ State.reset.call = none ∧
  State.reset.params = ⟨Layout.default, 16, 16, .halfUp, [], ResetState.default⟩ ∧
  atReset State.reset ∧ Inv State.reset

/-- BIND records the base of a new live instance, with no check and no other effect (R212), and is then the BASE of
the entries that pass none (R77); they have a meaning exactly when it is the block's, aligned and not bound before
(R41, log 10). -/
def Obligations.BindRecordsBase : Prop :=
  ∀ (s : State) (base : Nat),
    exec (.bind base) s = .next { s with bindings := base :: s.bindings } ∧
    ({ s with bindings := base :: s.bindings }.setBase none).base = base ∧
    (({ s with bindings := base :: s.bindings }.setBase none).baseOk = true ↔
      base = s.blockBase ∧ base % 4 = 0 ∧ base ∉ s.bindings)

/-! ## Invariants and whole-machine rules -/

/-- Every step keeps the invariants: those of R35 (queues within their capacities, cells and latch within their
widths) and those of the running operation (R155, R156). -/
def Obligations.StepKeepsInvariant : Prop :=
  ∀ s t : State, Inv s → step s = .next t → Inv t

/-- What R35 says of the flags in every state that meets the invariants. The last clause, that TXFF implies BUSY, is
added: it follows from R28, R29 and R31. -/
def Obligations.FlagsAreConsistent : Prop :=
  ∀ s : State, Inv s →
    ¬ (s.txff = true ∧ s.txfe = true) ∧ ¬ (s.rxfe = true ∧ s.rxff = true) ∧
    (s.txfe = true → s.txShift = none → s.busy = false) ∧
    (s.txff = true → s.busy = true)

/-- A free value shows only in the value last read: two states that meet the invariants and differ in the
free values to come behave alike otherwise (R92, R90, R151). -/
def Obligations.DrawsShowOnlyInReads : Prop :=
  ∀ (i : Instr) (s : State) (n : Nat), Inv s →
    Result.undrawn (exec i { s with draws := n }) = Result.undrawn (exec i s)

/-- Parameters are fixed and the wire only grows: no operation changes the layout, the depths, the tie rule, ENCODE,
RESET_STATE, the platform's mapping or the BASE it was given, only BIND adds a binding, and only RESET shortens the
wire (R10, R34, R38). -/
def Obligations.ParametersAreFixed : Prop :=
  ∀ (i : Instr) (s t : State), exec i s = .next t →
    t.params = s.params ∧ t.blockBase = s.blockBase ∧ t.base = s.base ∧
    (t.bindings ≠ s.bindings → ∃ base, i = .bind base) ∧
    (i ≠ .reset → s.wireOut <+: t.wireOut) ∧
    (t.wireOut ≠ s.wireOut → i = .txDone ∨ i = .reset)

/-- A hardware step other than a reset changes nothing but the queues, the shifter and the wire, and neither
loses, duplicates nor reorders a byte on its way out; MODEM_CHANGE is the identity (R170 to R175, R177). -/
def Obligations.HardwareStepsFrame : Prop :=
  (∀ s : State, exec .modemChange s = .next s) ∧
  ∀ (i : Instr) (s t : State), exec i s = .next t →
    i = .txLoad ∨ i = .txDone ∨ (∃ d, i = .rxArrive d) ∨ i = .modemChange →
    t = { s with txFifo := t.txFifo, rxFifo := t.rxFifo, txShift := t.txShift, wireOut := t.wireOut } ∧
    t.txFifo <:+ s.txFifo ∧ s.rxFifo <+: t.rxFifo ∧
    t.wireOut ++ t.txShift.toList ++ t.txFifo = s.wireOut ++ s.txShift.toList ++ s.txFifo
end

