-- ==== Sys2Proof/Laws/Layout.lean ====
section
/-! SUPPORT. Truncation (spec/00_scope.md R5), what a well-formed layout gives (R4, R62, R66 to R70), and the
bits of the words assembled with its positions. -/

namespace Sys2Proof

/-! ## Truncation -/

theorem toNat_trunc (n : Nat) (v : Word) : (trunc n v).toNat = v.toNat % 2 ^ n := by
  rw [trunc, BitVec.toNat_ofNat, Nat.mod_eq_of_lt]
  exact Nat.lt_of_le_of_lt (Nat.mod_le _ _) v.isLt

theorem trunc_lt (n : Nat) (v : Word) : (trunc n v).toNat < 2 ^ n := by
  rw [toNat_trunc]; exact Nat.mod_lt _ (Nat.two_pow_pos n)

/-- The bits of a truncation. -/
theorem getLsbD_trunc (n : Nat) (v : Word) (k : Nat) :
    (trunc n v).getLsbD k = (decide (k < n) && v.getLsbD k) := by
  rw [BitVec.getLsbD, toNat_trunc, Nat.testBit_mod_two_pow, BitVec.getLsbD]

/-- A value that fits is its own truncation. -/
theorem trunc_of_lt {n : Nat} {v : Word} (h : v.toNat < 2 ^ n) : trunc n v = v := by
  apply BitVec.eq_of_toNat_eq; rw [toNat_trunc, Nat.mod_eq_of_lt h]

@[simp] theorem trunc_trunc (n : Nat) (v : Word) : trunc n (trunc n v) = trunc n v :=
  trunc_of_lt (trunc_lt n v)

/-- A value whose bits all lie below `n` is its own truncation. -/
theorem trunc_of_bits {n : Nat} {v : Word} (h : ∀ k, v.getLsbD k = true → k < n) : trunc n v = v := by
  apply BitVec.eq_of_getLsbD_eq
  intro k _
  rw [getLsbD_trunc]
  cases hv : v.getLsbD k
  · simp
  · simp [h k hv]

/-- The bits of a truncation lie below `n`. -/
theorem lt_of_getLsbD_trunc {n : Nat} {v : Word} {k : Nat} (h : (trunc n v).getLsbD k = true) : k < n := by
  simp only [getLsbD_trunc, Bool.and_eq_true, decide_eq_true_eq] at h; exact h.1

/-! ## One bit at a position -/

theorem getLsbD_bit_shift (x : Bool) (m k : Nat) :
    (bit x <<< m).getLsbD k = (decide (k < 32) && decide (k = m) && x) := by
  rw [BitVec.getLsbD_shiftLeft]
  by_cases hk : k < 32
  · cases x
    · simp [bit]
    · simp only [bit, BitVec.getLsbD_one, if_true, hk, decide_true, Bool.true_and, Bool.and_true]
      rcases Nat.lt_trichotomy k m with h | h | h
      · simp [h, Nat.ne_of_lt h]
      · simp [h]
      · simp [Nat.not_lt.mpr (Nat.le_of_lt h), Nat.sub_ne_zero_of_lt h, Nat.ne_of_gt h]
  · simp [hk]

theorem getLsbD_one_shift (m k : Nat) :
    (1#32 <<< m).getLsbD k = (decide (k < 32) && decide (k = m)) := by
  simpa [bit] using getLsbD_bit_shift true m k

/-! ## What a well-formed layout gives, part by part -/

theorem distinctBits_iff {low width : Nat} {l : List Nat} :
    distinctBits low width l = true ↔ l.Nodup ∧ ∀ p ∈ l, low ≤ p ∧ p < width := by
  simp [distinctBits]

theorem Layout.wf_iff {L : Layout} :
    L.wf = true ↔
      L.offsetsWf = true ∧ L.widthsWf = true ∧ distinctBits 8 32 L.dr.list = true ∧
      distinctBits 0 32 L.fr.list = true ∧ distinctBits 0 L.width.lcrh L.lcrh.list = true ∧
      distinctBits 0 L.width.cr L.cr.list = true ∧ distinctBits 0 L.width.imsc L.int.list = true ∧
      distinctBits 0 L.width.ifls L.int.levels = true := by
  simp [Layout.wf, and_assoc]

theorem Layout.default_wf : Layout.default.wf = true := by decide

section
variable {L : Layout} (h : L.wf = true)
include h

theorem Layout.blockSize_le : L.blockSize ≤ 0x1000 := by
  have := (Layout.wf_iff.mp h).1; simp_all [Layout.offsetsWf]

theorem Layout.offsets_nodup : L.off.list.Nodup := by
  have := (Layout.wf_iff.mp h).1; simp_all [Layout.offsetsWf]

/-- A listed offset is aligned and in the window. -/
theorem Layout.offset_ok {o : Offset} (ho : o ∈ L.off.list) :
    wordAligned o = true ∧ o.toNat < L.blockSize := by
  have := (Layout.wf_iff.mp h).1
  simp only [Layout.offsetsWf, Bool.and_eq_true, List.all_eq_true, decide_eq_true_eq] at this
  exact this.2 o ho

theorem Layout.width_le {w : Nat}
    (hw : w ∈ [L.width.ibrd, L.width.fbrd, L.width.lcrh, L.width.cr, L.width.ifls, L.width.imsc]) :
    w ≤ 32 := by
  have := (Layout.wf_iff.mp h).2.1
  simp only [Layout.widthsWf, List.all_eq_true, decide_eq_true_eq] at this
  exact this w hw

theorem Layout.dr_bits : L.dr.list.Nodup ∧ ∀ p ∈ L.dr.list, 8 ≤ p ∧ p < 32 :=
  distinctBits_iff.mp (Layout.wf_iff.mp h).2.2.1

theorem Layout.fr_bits : L.fr.list.Nodup ∧ ∀ p ∈ L.fr.list, p < 32 := by
  have := distinctBits_iff.mp (Layout.wf_iff.mp h).2.2.2.1
  exact ⟨this.1, fun p hp => (this.2 p hp).2⟩

theorem Layout.lcrh_bits : L.lcrh.list.Nodup ∧ ∀ p ∈ L.lcrh.list, p < L.width.lcrh := by
  have := distinctBits_iff.mp (Layout.wf_iff.mp h).2.2.2.2.1
  exact ⟨this.1, fun p hp => (this.2 p hp).2⟩

theorem Layout.cr_bits : L.cr.list.Nodup ∧ ∀ p ∈ L.cr.list, p < L.width.cr := by
  have := distinctBits_iff.mp (Layout.wf_iff.mp h).2.2.2.2.2.1
  exact ⟨this.1, fun p hp => (this.2 p hp).2⟩

end

end Sys2Proof

namespace Sys2Proof.Machine

/-! ## FR as a word (R67) -/

/-- Every bit of FR as a word. -/
theorem FlagReg.getLsbD_word (L : Layout) (f : FlagReg) (k : Nat) :
    (f.word L).getLsbD k =
      (decide (k < 32) && ((decide (k = L.fr.cts) && f.cts) || (decide (k = L.fr.dsr) && f.dsr) ||
        (decide (k = L.fr.dcd) && f.dcd) || (decide (k = L.fr.busy) && f.busy) ||
        (decide (k = L.fr.rxfe) && f.rxfe) || (decide (k = L.fr.txff) && f.txff) ||
        (decide (k = L.fr.rxff) && f.rxff) || (decide (k = L.fr.txfe) && f.txfe) ||
        (decide (k = L.fr.ri) && f.ri))) := by
  simp only [FlagReg.word, BitVec.getLsbD_or, getLsbD_bit_shift]
  cases decide (k < 32) <;> simp

/-- The flag at each position, and zero at every other, in a well-formed layout. -/
theorem FlagReg.word_bits {L : Layout} (h : L.wf = true) (f : FlagReg) :
    (f.word L).getLsbD L.fr.cts = f.cts ∧ (f.word L).getLsbD L.fr.dsr = f.dsr ∧
    (f.word L).getLsbD L.fr.dcd = f.dcd ∧ (f.word L).getLsbD L.fr.busy = f.busy ∧
    (f.word L).getLsbD L.fr.rxfe = f.rxfe ∧ (f.word L).getLsbD L.fr.txff = f.txff ∧
    (f.word L).getLsbD L.fr.rxff = f.rxff ∧ (f.word L).getLsbD L.fr.txfe = f.txfe ∧
    (f.word L).getLsbD L.fr.ri = f.ri ∧ ∀ k ∉ L.fr.list, (f.word L).getLsbD k = false := by
  obtain ⟨hn, hlt⟩ := Layout.fr_bits h
  simp only [FrBits.list, List.nodup_cons, List.mem_cons, List.not_mem_nil, or_false, not_or,
    List.nodup_nil, and_true, forall_eq_or_imp, forall_eq, not_false_eq_true] at hn hlt
  simp only [FlagReg.getLsbD_word, FrBits.list, List.mem_cons, List.not_mem_nil, or_false, not_or]
  refine ⟨?_, ?_, ?_, ?_, ?_, ?_, ?_, ?_, ?_, ?_⟩
  on_goal 10 => intro k hk; simp [hk]
  all_goals simp [hlt, hn, Ne.symm]

/-! ## DR as a word (R66) -/

theorem DataReg.getLsbD_word {L : Layout} (d : DataReg) (k : Nat) :
    (d.word L).getLsbD k =
      (d.data.getLsbD k || (decide (k < 32) &&
        ((decide (k = L.dr.fe) && d.errors.getLsbD 0) || (decide (k = L.dr.pe) && d.errors.getLsbD 1) ||
          (decide (k = L.dr.be) && d.errors.getLsbD 2) || (decide (k = L.dr.oe) && d.errors.getLsbD 3)))) := by
  simp only [DataReg.word, BitVec.getLsbD_or, getLsbD_bit_shift, zext32, BitVec.getLsbD_setWidth]
  by_cases hk : k < 32
  · simp [hk, Bool.or_assoc]
  · simp [hk, BitVec.getLsbD_of_ge d.data k (by omega)]

/-- `trunc_8` of the word a read of DR returns is its byte (R75, R151). -/
theorem DataReg.setWidth_word {L : Layout} (h : L.wf = true) (d : DataReg) :
    (d.word L).setWidth 8 = d.data := by
  apply BitVec.eq_of_getLsbD_eq
  intro k hk
  have := (Layout.dr_bits h).2
  simp only [DrBits.list, List.mem_cons, List.not_mem_nil, or_false, forall_eq_or_imp, forall_eq] at this
  have hne : ∀ p, 8 ≤ p ∧ p < 32 → k ≠ p := by omega
  simp [DataReg.getLsbD_word, hk, hne _ this.1, hne _ this.2.1, hne _ this.2.2.1, hne _ this.2.2.2]

/-- Every bit of a read of DR other than the byte and the error bits is zero (R66). -/
theorem DataReg.word_zero {L : Layout} (d : DataReg) {k : Nat} (hk : 8 ≤ k) (hd : k ∉ L.dr.list) :
    (d.word L).getLsbD k = false := by
  simp only [DrBits.list, List.mem_cons, List.not_mem_nil, or_false, not_or] at hd
  simp [DataReg.getLsbD_word, BitVec.getLsbD_of_ge d.data k (by omega), hd]

/-! ## The words INIT writes (R72, R73) -/

theorem getLsbD_lcrhInit (L : Layout) (k : Nat) :
    (lcrhInit L).getLsbD k =
      (decide (k < 32) && ((decide (L.lcrh.wlen ≤ k) && L.lcrh.wlen8.getLsbD (k - L.lcrh.wlen)) ||
        decide (k = L.lcrh.fen))) := by
  rw [lcrhInit, BitVec.getLsbD_or, getLsbD_one_shift, BitVec.getLsbD_shiftLeft, zext32,
    BitVec.getLsbD_setWidth]
  by_cases hk : k < 32
  · have h1 : k - L.lcrh.wlen < 32 := by omega
    by_cases h2 : k < L.lcrh.wlen
    · simp [hk, h2, Nat.not_le.mpr h2]
    · simp [hk, h1, h2, Nat.not_lt.mp h2]
  · simp [hk]

theorem getLsbD_crInit (L : Layout) (k : Nat) :
    (crInit L).getLsbD k =
      (decide (k < 32) && (decide (k = L.cr.uarten) || decide (k = L.cr.txe) || decide (k = L.cr.rxe))) := by
  simp only [crInit, crNamedMask, BitVec.getLsbD_or, getLsbD_one_shift]
  cases decide (k < 32) <;> simp

section
variable {L : Layout} (h : L.wf = true)
include h

/-- The positions of LCR_H that INIT sets lie inside the cell. -/
theorem lcrhOperand_lcrhInit : lcrhOperand L (lcrhInit L) = lcrhInit L := by
  have hlt := (Layout.lcrh_bits h).2
  simp only [LcrhBits.list, List.mem_cons, List.not_mem_nil, or_false, forall_eq_or_imp, forall_eq] at hlt
  apply trunc_of_bits
  intro k hk
  rw [getLsbD_lcrhInit] at hk
  simp only [Bool.and_eq_true, Bool.or_eq_true, decide_eq_true_eq] at hk
  rcases hk with ⟨-, ⟨h1, h2⟩ | h1⟩
  · have := BitVec.lt_of_getLsbD h2; omega
  · omega

theorem crOperand_crInit : crOperand L (crInit L) = crInit L := by
  have hlt := (Layout.cr_bits h).2
  simp only [CrBits.list, List.mem_cons, List.not_mem_nil, or_false, forall_eq_or_imp, forall_eq] at hlt
  apply trunc_of_bits
  intro k hk
  rw [getLsbD_crInit] at hk
  simp only [Bool.and_eq_true, Bool.or_eq_true, decide_eq_true_eq] at hk
  omega

theorem lcrhFen_lcrhInit : lcrhFen L (lcrhInit L) = true := by
  have hlt := (Layout.lcrh_bits h).2
  have hw := Layout.width_le h (w := L.width.lcrh) (by simp)
  simp only [LcrhBits.list, List.mem_cons, List.not_mem_nil, or_false, forall_eq_or_imp, forall_eq] at hlt
  rw [lcrhFen, getLsbD_lcrhInit]
  have : L.lcrh.fen < 32 := by omega
  simp [this]

theorem lcrhBrk_lcrhInit : lcrhBrk L (lcrhInit L) = false := by
  have hn := (Layout.lcrh_bits h).1
  simp only [LcrhBits.list, List.nodup_cons, List.mem_cons, List.not_mem_nil, or_false, not_or,
    List.nodup_nil, and_true, not_false_eq_true] at hn
  obtain ⟨⟨-, -, -, h1, h2, h3, -⟩, -⟩ := hn
  rw [lcrhBrk, getLsbD_lcrhInit]
  by_cases hle : L.lcrh.wlen ≤ L.lcrh.brk
  · rw [BitVec.getLsbD_of_ge _ _ (by omega)]; simp [h1]
  · simp [hle, h1]

theorem lcrhWlen_lcrhInit : lcrhWlen L (lcrhInit L) = L.lcrh.wlen8 := by
  obtain ⟨hn, hlt⟩ := Layout.lcrh_bits h
  have hw := Layout.width_le h (w := L.width.lcrh) (by simp)
  simp only [LcrhBits.list, List.nodup_cons, List.mem_cons, List.not_mem_nil, or_false, not_or,
    List.nodup_nil, and_true, not_false_eq_true, forall_eq_or_imp, forall_eq] at hn hlt
  obtain ⟨-, -, -, -, ⟨h1, h2, -⟩, -⟩ := hn
  apply BitVec.eq_of_getLsbD_eq
  intro k hk
  rw [lcrhWlen, BitVec.getLsbD_extractLsb', getLsbD_lcrhInit]
  have h3 : L.lcrh.wlen + k < 32 := by omega
  have h4 : L.lcrh.wlen + k ≠ L.lcrh.fen := by
    rcases (by omega : k = 0 ∨ k = 1) with rfl | rfl <;> omega
  simp [hk, h3, h4]

theorem crUarten_crInit : crUarten L (crInit L) = true := by
  have hlt := (Layout.cr_bits h).2
  have hw := Layout.width_le h (w := L.width.cr) (by simp)
  simp only [CrBits.list, List.mem_cons, List.not_mem_nil, or_false, forall_eq_or_imp, forall_eq] at hlt
  have : L.cr.uarten < 32 := by omega
  simp [crUarten, getLsbD_crInit, this]

theorem crTxe_crInit : crTxe L (crInit L) = true := by
  have hlt := (Layout.cr_bits h).2
  have hw := Layout.width_le h (w := L.width.cr) (by simp)
  simp only [CrBits.list, List.mem_cons, List.not_mem_nil, or_false, forall_eq_or_imp, forall_eq] at hlt
  have : L.cr.txe < 32 := by omega
  simp [crTxe, getLsbD_crInit, this]

theorem crRxe_crInit : crRxe L (crInit L) = true := by
  have hlt := (Layout.cr_bits h).2
  have hw := Layout.width_le h (w := L.width.cr) (by simp)
  simp only [CrBits.list, List.mem_cons, List.not_mem_nil, or_false, forall_eq_or_imp, forall_eq] at hlt
  have : L.cr.rxe < 32 := by omega
  simp [crRxe, getLsbD_crInit, this]

end

/-- INIT clears every bit of CR that the source does not name. -/
theorem crOtherBits_crInit (L : Layout) : crOtherBits L (crInit L) = 0#32 := by
  apply BitVec.eq_of_getLsbD_eq
  intro k hk
  simp only [crOtherBits, crInit, BitVec.getLsbD_and, getLsbD_trunc, BitVec.getLsbD_not, hk, decide_true,
    Bool.true_and, BitVec.getLsbD_zero]
  cases (crNamedMask L).getLsbD k <;> simp

end Sys2Proof.Machine
end

