-- ==== Sys2Proof/Laws/Decode.lean ====
section
/-! SUPPORT. The fields of a transaction word (spec/30_encoding.md R60) and the register map (R62). -/

namespace Sys2Proof

@[simp] theorem dirOf_transaction (write : Bool) (off : Offset) (v : Word) :
    dirOf (transaction write off v) = write := by
  simp only [dirOf, transaction, BitVec.getLsbD_append]
  cases write <;> simp

@[simp] theorem offsetOf_transaction (write : Bool) (off : Offset) (v : Word) :
    offsetOf (transaction write off v) = off := by
  apply BitVec.eq_of_getLsbD_eq
  intro i hi
  simp only [offsetOf, transaction, BitVec.getLsbD_extractLsb', BitVec.getLsbD_append]
  simp [hi]

@[simp] theorem wdataOf_transaction (write : Bool) (off : Offset) (v : Word) :
    wdataOf (transaction write off v) = v := by
  apply BitVec.eq_of_getLsbD_eq
  intro i hi
  simp only [wdataOf, transaction, BitVec.getLsbD_extractLsb', BitVec.getLsbD_append]
  simp [hi]

/-- A transaction word is its three fields (R60). -/
theorem transaction_fields (t : Transaction) : transaction (dirOf t) (offsetOf t) (wdataOf t) = t := by
  apply BitVec.eq_of_getLsbD_eq
  intro i hi
  simp only [transaction, dirOf, offsetOf, wdataOf, BitVec.getLsbD_append,
    BitVec.getLsbD_extractLsb', BitVec.getLsbD_ofBool]
  by_cases h1 : i < 32
  · simp [h1]
  · by_cases h2 : i - 32 < 12
    · simp [h1, h2, show 32 + (i - 32) = i by omega]
    · obtain rfl : i = 44 := by omega
      simp

/-- Decoding a transaction is selecting by its fields (R61). -/
@[simp] theorem decode_transaction (L : Layout) (write : Bool) (off : Offset) (v : Word) :
    decode L (transaction write off v) = selectInstr L write off v := by
  simp [decode]

/-- The offsets of the registers are the list of the map (R62). -/
theorem Reg.map_offset (L : Layout) : Reg.all.map (Reg.offset L) = L.off.list := rfl

theorem Reg.mem_all (r : Reg) : r ∈ Reg.all := by cases r <;> decide

theorem Reg.offset_mem (L : Layout) (r : Reg) : r.offset L ∈ L.off.list := by
  rw [← Reg.map_offset]; exact List.mem_map_of_mem (Reg.mem_all r)

/-- Different registers stand at different offsets (R62). -/
theorem Reg.offset_inj {L : Layout} (h : L.wf = true) {r r' : Reg} (he : r.offset L = r'.offset L) :
    r = r' := by
  have hn := Layout.offsets_nodup h
  rw [← Reg.map_offset] at hn
  exact List.inj_on_of_nodup_map hn (Reg.mem_all r) (Reg.mem_all r') he

/-- A register found at an offset stands there (R61). -/
theorem Reg.offset_of_at? {L : Layout} {off : Offset} {r : Reg} (h : Reg.at? L off = some r) :
    r.offset L = off := by
  simpa using List.find?_some h

/-- Every register is found at its offset (R62). -/
theorem Reg.at?_offset {L : Layout} (h : L.wf = true) (r : Reg) : Reg.at? L (r.offset L) = some r := by
  cases hr : Reg.at? L (r.offset L) with
  | none =>
    have := List.find?_eq_none.mp hr r (Reg.mem_all r)
    simp at this
  | some r' => rw [Reg.offset_inj h (Reg.offset_of_at? hr)]

/-- An offset at which no register is found is not listed (R64). -/
theorem Reg.at?_eq_none_iff {L : Layout} {off : Offset} :
    Reg.at? L off = none ↔ off ∉ L.off.list := by
  rw [← Reg.map_offset]
  simp only [Reg.at?, List.find?_eq_none, List.mem_map, not_exists, not_and, beq_iff_eq]

theorem Reg.wordAligned_offset {L : Layout} (h : L.wf = true) (r : Reg) :
    wordAligned (r.offset L) = true := (Layout.offset_ok h (Reg.offset_mem L r)).1

theorem Reg.offset_lt {L : Layout} (h : L.wf = true) (r : Reg) : (r.offset L).toNat < L.blockSize :=
  (Layout.offset_ok h (Reg.offset_mem L r)).2

/-- What a reserved offset is, part by part (R64). -/
theorem Layout.reserved_iff {L : Layout} {off : Offset} :
    L.reserved off = true ↔ wordAligned off = true ∧ off.toNat < L.blockSize ∧ off ∉ L.off.list := by
  simp [Layout.reserved, and_assoc]

/-- An access at a register's offset selects its operation (R61). -/
theorem selectInstr_offset {L : Layout} (h : L.wf = true) (write : Bool) (r : Reg) (v : Word) :
    selectInstr L write (r.offset L) v = .ok (if write then r.writeInstr v else r.readInstr) := by
  simp only [selectInstr, Reg.wordAligned_offset h, Reg.offset_lt h, if_true, Reg.at?_offset h]
  cases write <;> rfl

/-- An access at a reserved offset selects the reserved operation (R64). -/
theorem selectInstr_reserved {L : Layout} (write : Bool) {off : Offset} (v : Word)
    (ho : L.reserved off = true) :
    selectInstr L write off v = .ok (if write then .wrReserved off v else .rdReserved off) := by
  obtain ⟨h1, h2, h3⟩ := Layout.reserved_iff.mp ho
  simp only [selectInstr, h1, h2, if_true, Reg.at?_eq_none_iff.mpr h3]
  cases write <;> rfl

/-- The word of a register access, field by field. -/
theorem encode_eq_some {L : Layout} {i : Instr} {t : Transaction} (h : encode L i = some t) :
    ∃ write off v, i.busForm L = some (write, off, v) ∧ t = transaction write off v := by
  unfold encode at h
  split at h
  · exact ⟨_, _, _, ‹_›, (Option.some.inj h).symm⟩
  · cases h

end Sys2Proof
end

