-- ==== Sys2Proof/Laws/State.lean ====
section
/-! SUPPORT. One lemma per field per named update of the state, so that no later proof unfolds one. -/

namespace Sys2Proof.Machine

/-! ## The bus master receives a value -/

section
variable (s : State) (v : Word)

@[simp] theorem State.returning_ibrd : (s.returning v).ibrd = s.ibrd := rfl
@[simp] theorem State.returning_fbrd : (s.returning v).fbrd = s.fbrd := rfl
@[simp] theorem State.returning_lcrh : (s.returning v).lcrh = s.lcrh := rfl
@[simp] theorem State.returning_cr : (s.returning v).cr = s.cr := rfl
@[simp] theorem State.returning_ifls : (s.returning v).ifls = s.ifls := rfl
@[simp] theorem State.returning_imsc : (s.returning v).imsc = s.imsc := rfl
@[simp] theorem State.returning_baudLatch : (s.returning v).baudLatch = s.baudLatch := rfl
@[simp] theorem State.returning_txFifo : (s.returning v).txFifo = s.txFifo := rfl
@[simp] theorem State.returning_rxFifo : (s.returning v).rxFifo = s.rxFifo := rfl
@[simp] theorem State.returning_txShift : (s.returning v).txShift = s.txShift := rfl
@[simp] theorem State.returning_wireOut : (s.returning v).wireOut = s.wireOut := rfl
@[simp] theorem State.returning_call : (s.returning v).call = s.call := rfl
@[simp] theorem State.returning_readData : (s.returning v).readData = v := rfl
@[simp] theorem State.returning_divisor : (s.returning v).divisor = s.divisor := rfl
@[simp] theorem State.returning_returned : (s.returning v).returned = s.returned := rfl
@[simp] theorem State.returning_bindings : (s.returning v).bindings = s.bindings := rfl
@[simp] theorem State.returning_base : (s.returning v).base = s.base := rfl
@[simp] theorem State.returning_blockBase : (s.returning v).blockBase = s.blockBase := rfl
@[simp] theorem State.returning_params : (s.returning v).params = s.params := rfl
@[simp] theorem State.returning_program : (s.returning v).program = s.program := rfl
@[simp] theorem State.returning_schedule : (s.returning v).schedule = s.schedule := rfl
@[simp] theorem State.returning_draws : (s.returning v).draws = s.draws := rfl

end

/-! ## The running operation -/

section
variable (s : State) (c : Option Call)

@[simp] theorem State.setCall_ibrd : (s.setCall c).ibrd = s.ibrd := rfl
@[simp] theorem State.setCall_fbrd : (s.setCall c).fbrd = s.fbrd := rfl
@[simp] theorem State.setCall_lcrh : (s.setCall c).lcrh = s.lcrh := rfl
@[simp] theorem State.setCall_cr : (s.setCall c).cr = s.cr := rfl
@[simp] theorem State.setCall_ifls : (s.setCall c).ifls = s.ifls := rfl
@[simp] theorem State.setCall_imsc : (s.setCall c).imsc = s.imsc := rfl
@[simp] theorem State.setCall_baudLatch : (s.setCall c).baudLatch = s.baudLatch := rfl
@[simp] theorem State.setCall_txFifo : (s.setCall c).txFifo = s.txFifo := rfl
@[simp] theorem State.setCall_rxFifo : (s.setCall c).rxFifo = s.rxFifo := rfl
@[simp] theorem State.setCall_txShift : (s.setCall c).txShift = s.txShift := rfl
@[simp] theorem State.setCall_wireOut : (s.setCall c).wireOut = s.wireOut := rfl
@[simp] theorem State.setCall_call : (s.setCall c).call = c := rfl
@[simp] theorem State.setCall_readData : (s.setCall c).readData = s.readData := rfl
@[simp] theorem State.setCall_divisor : (s.setCall c).divisor = s.divisor := rfl
@[simp] theorem State.setCall_returned : (s.setCall c).returned = s.returned := rfl
@[simp] theorem State.setCall_bindings : (s.setCall c).bindings = s.bindings := rfl
@[simp] theorem State.setCall_base : (s.setCall c).base = s.base := rfl
@[simp] theorem State.setCall_blockBase : (s.setCall c).blockBase = s.blockBase := rfl
@[simp] theorem State.setCall_params : (s.setCall c).params = s.params := rfl
@[simp] theorem State.setCall_program : (s.setCall c).program = s.program := rfl
@[simp] theorem State.setCall_schedule : (s.setCall c).schedule = s.schedule := rfl
@[simp] theorem State.setCall_draws : (s.setCall c).draws = s.draws := rfl

end

/-! ## Free values -/

section
variable (s : State) (k : Nat)

@[simp] theorem State.spend_ibrd : (s.spend k).ibrd = s.ibrd := rfl
@[simp] theorem State.spend_fbrd : (s.spend k).fbrd = s.fbrd := rfl
@[simp] theorem State.spend_lcrh : (s.spend k).lcrh = s.lcrh := rfl
@[simp] theorem State.spend_cr : (s.spend k).cr = s.cr := rfl
@[simp] theorem State.spend_ifls : (s.spend k).ifls = s.ifls := rfl
@[simp] theorem State.spend_imsc : (s.spend k).imsc = s.imsc := rfl
@[simp] theorem State.spend_baudLatch : (s.spend k).baudLatch = s.baudLatch := rfl
@[simp] theorem State.spend_txFifo : (s.spend k).txFifo = s.txFifo := rfl
@[simp] theorem State.spend_rxFifo : (s.spend k).rxFifo = s.rxFifo := rfl
@[simp] theorem State.spend_txShift : (s.spend k).txShift = s.txShift := rfl
@[simp] theorem State.spend_wireOut : (s.spend k).wireOut = s.wireOut := rfl
@[simp] theorem State.spend_call : (s.spend k).call = s.call := rfl
@[simp] theorem State.spend_readData : (s.spend k).readData = s.readData := rfl
@[simp] theorem State.spend_divisor : (s.spend k).divisor = s.divisor := rfl
@[simp] theorem State.spend_returned : (s.spend k).returned = s.returned := rfl
@[simp] theorem State.spend_bindings : (s.spend k).bindings = s.bindings := rfl
@[simp] theorem State.spend_base : (s.spend k).base = s.base := rfl
@[simp] theorem State.spend_blockBase : (s.spend k).blockBase = s.blockBase := rfl
@[simp] theorem State.spend_params : (s.spend k).params = s.params := rfl
@[simp] theorem State.spend_program : (s.spend k).program = s.program := rfl
@[simp] theorem State.spend_schedule : (s.spend k).schedule = s.schedule := rfl
@[simp] theorem State.spend_draws : (s.spend k).draws = s.draws + k := rfl

end

/-! ## The cell IBRD -/

section
variable (s : State) (v : Word)

@[simp] theorem State.writeIbrd_ibrd : (s.writeIbrd v).ibrd = ibrdOperand s.params.layout v := rfl
@[simp] theorem State.writeIbrd_fbrd : (s.writeIbrd v).fbrd = s.fbrd := rfl
@[simp] theorem State.writeIbrd_lcrh : (s.writeIbrd v).lcrh = s.lcrh := rfl
@[simp] theorem State.writeIbrd_cr : (s.writeIbrd v).cr = s.cr := rfl
@[simp] theorem State.writeIbrd_ifls : (s.writeIbrd v).ifls = s.ifls := rfl
@[simp] theorem State.writeIbrd_imsc : (s.writeIbrd v).imsc = s.imsc := rfl
@[simp] theorem State.writeIbrd_baudLatch : (s.writeIbrd v).baudLatch = s.baudLatch := rfl
@[simp] theorem State.writeIbrd_txFifo : (s.writeIbrd v).txFifo = s.txFifo := rfl
@[simp] theorem State.writeIbrd_rxFifo : (s.writeIbrd v).rxFifo = s.rxFifo := rfl
@[simp] theorem State.writeIbrd_txShift : (s.writeIbrd v).txShift = s.txShift := rfl
@[simp] theorem State.writeIbrd_wireOut : (s.writeIbrd v).wireOut = s.wireOut := rfl
@[simp] theorem State.writeIbrd_call : (s.writeIbrd v).call = s.call := rfl
@[simp] theorem State.writeIbrd_readData : (s.writeIbrd v).readData = s.readData := rfl
@[simp] theorem State.writeIbrd_divisor : (s.writeIbrd v).divisor = s.divisor := rfl
@[simp] theorem State.writeIbrd_returned : (s.writeIbrd v).returned = s.returned := rfl
@[simp] theorem State.writeIbrd_bindings : (s.writeIbrd v).bindings = s.bindings := rfl
@[simp] theorem State.writeIbrd_base : (s.writeIbrd v).base = s.base := rfl
@[simp] theorem State.writeIbrd_blockBase : (s.writeIbrd v).blockBase = s.blockBase := rfl
@[simp] theorem State.writeIbrd_params : (s.writeIbrd v).params = s.params := rfl
@[simp] theorem State.writeIbrd_program : (s.writeIbrd v).program = s.program := rfl
@[simp] theorem State.writeIbrd_schedule : (s.writeIbrd v).schedule = s.schedule := rfl
@[simp] theorem State.writeIbrd_draws : (s.writeIbrd v).draws = s.draws := rfl

end

/-! ## The cell FBRD -/

section
variable (s : State) (v : Word)

@[simp] theorem State.writeFbrd_ibrd : (s.writeFbrd v).ibrd = s.ibrd := rfl
@[simp] theorem State.writeFbrd_fbrd : (s.writeFbrd v).fbrd = fbrdOperand s.params.layout v := rfl
@[simp] theorem State.writeFbrd_lcrh : (s.writeFbrd v).lcrh = s.lcrh := rfl
@[simp] theorem State.writeFbrd_cr : (s.writeFbrd v).cr = s.cr := rfl
@[simp] theorem State.writeFbrd_ifls : (s.writeFbrd v).ifls = s.ifls := rfl
@[simp] theorem State.writeFbrd_imsc : (s.writeFbrd v).imsc = s.imsc := rfl
@[simp] theorem State.writeFbrd_baudLatch : (s.writeFbrd v).baudLatch = s.baudLatch := rfl
@[simp] theorem State.writeFbrd_txFifo : (s.writeFbrd v).txFifo = s.txFifo := rfl
@[simp] theorem State.writeFbrd_rxFifo : (s.writeFbrd v).rxFifo = s.rxFifo := rfl
@[simp] theorem State.writeFbrd_txShift : (s.writeFbrd v).txShift = s.txShift := rfl
@[simp] theorem State.writeFbrd_wireOut : (s.writeFbrd v).wireOut = s.wireOut := rfl
@[simp] theorem State.writeFbrd_call : (s.writeFbrd v).call = s.call := rfl
@[simp] theorem State.writeFbrd_readData : (s.writeFbrd v).readData = s.readData := rfl
@[simp] theorem State.writeFbrd_divisor : (s.writeFbrd v).divisor = s.divisor := rfl
@[simp] theorem State.writeFbrd_returned : (s.writeFbrd v).returned = s.returned := rfl
@[simp] theorem State.writeFbrd_bindings : (s.writeFbrd v).bindings = s.bindings := rfl
@[simp] theorem State.writeFbrd_base : (s.writeFbrd v).base = s.base := rfl
@[simp] theorem State.writeFbrd_blockBase : (s.writeFbrd v).blockBase = s.blockBase := rfl
@[simp] theorem State.writeFbrd_params : (s.writeFbrd v).params = s.params := rfl
@[simp] theorem State.writeFbrd_program : (s.writeFbrd v).program = s.program := rfl
@[simp] theorem State.writeFbrd_schedule : (s.writeFbrd v).schedule = s.schedule := rfl
@[simp] theorem State.writeFbrd_draws : (s.writeFbrd v).draws = s.draws := rfl

end

/-! ## The cell CR -/

section
variable (s : State) (v : Word)

@[simp] theorem State.writeCr_ibrd : (s.writeCr v).ibrd = s.ibrd := rfl
@[simp] theorem State.writeCr_fbrd : (s.writeCr v).fbrd = s.fbrd := rfl
@[simp] theorem State.writeCr_lcrh : (s.writeCr v).lcrh = s.lcrh := rfl
@[simp] theorem State.writeCr_cr : (s.writeCr v).cr = crOperand s.params.layout v := rfl
@[simp] theorem State.writeCr_ifls : (s.writeCr v).ifls = s.ifls := rfl
@[simp] theorem State.writeCr_imsc : (s.writeCr v).imsc = s.imsc := rfl
@[simp] theorem State.writeCr_baudLatch : (s.writeCr v).baudLatch = s.baudLatch := rfl
@[simp] theorem State.writeCr_txFifo : (s.writeCr v).txFifo = s.txFifo := rfl
@[simp] theorem State.writeCr_rxFifo : (s.writeCr v).rxFifo = s.rxFifo := rfl
@[simp] theorem State.writeCr_txShift : (s.writeCr v).txShift = s.txShift := rfl
@[simp] theorem State.writeCr_wireOut : (s.writeCr v).wireOut = s.wireOut := rfl
@[simp] theorem State.writeCr_call : (s.writeCr v).call = s.call := rfl
@[simp] theorem State.writeCr_readData : (s.writeCr v).readData = s.readData := rfl
@[simp] theorem State.writeCr_divisor : (s.writeCr v).divisor = s.divisor := rfl
@[simp] theorem State.writeCr_returned : (s.writeCr v).returned = s.returned := rfl
@[simp] theorem State.writeCr_bindings : (s.writeCr v).bindings = s.bindings := rfl
@[simp] theorem State.writeCr_base : (s.writeCr v).base = s.base := rfl
@[simp] theorem State.writeCr_blockBase : (s.writeCr v).blockBase = s.blockBase := rfl
@[simp] theorem State.writeCr_params : (s.writeCr v).params = s.params := rfl
@[simp] theorem State.writeCr_program : (s.writeCr v).program = s.program := rfl
@[simp] theorem State.writeCr_schedule : (s.writeCr v).schedule = s.schedule := rfl
@[simp] theorem State.writeCr_draws : (s.writeCr v).draws = s.draws := rfl

end

/-! ## The cell IFLS -/

section
variable (s : State) (v : Word)

@[simp] theorem State.writeIfls_ibrd : (s.writeIfls v).ibrd = s.ibrd := rfl
@[simp] theorem State.writeIfls_fbrd : (s.writeIfls v).fbrd = s.fbrd := rfl
@[simp] theorem State.writeIfls_lcrh : (s.writeIfls v).lcrh = s.lcrh := rfl
@[simp] theorem State.writeIfls_cr : (s.writeIfls v).cr = s.cr := rfl
@[simp] theorem State.writeIfls_ifls : (s.writeIfls v).ifls = iflsOperand s.params.layout v := rfl
@[simp] theorem State.writeIfls_imsc : (s.writeIfls v).imsc = s.imsc := rfl
@[simp] theorem State.writeIfls_baudLatch : (s.writeIfls v).baudLatch = s.baudLatch := rfl
@[simp] theorem State.writeIfls_txFifo : (s.writeIfls v).txFifo = s.txFifo := rfl
@[simp] theorem State.writeIfls_rxFifo : (s.writeIfls v).rxFifo = s.rxFifo := rfl
@[simp] theorem State.writeIfls_txShift : (s.writeIfls v).txShift = s.txShift := rfl
@[simp] theorem State.writeIfls_wireOut : (s.writeIfls v).wireOut = s.wireOut := rfl
@[simp] theorem State.writeIfls_call : (s.writeIfls v).call = s.call := rfl
@[simp] theorem State.writeIfls_readData : (s.writeIfls v).readData = s.readData := rfl
@[simp] theorem State.writeIfls_divisor : (s.writeIfls v).divisor = s.divisor := rfl
@[simp] theorem State.writeIfls_returned : (s.writeIfls v).returned = s.returned := rfl
@[simp] theorem State.writeIfls_bindings : (s.writeIfls v).bindings = s.bindings := rfl
@[simp] theorem State.writeIfls_base : (s.writeIfls v).base = s.base := rfl
@[simp] theorem State.writeIfls_blockBase : (s.writeIfls v).blockBase = s.blockBase := rfl
@[simp] theorem State.writeIfls_params : (s.writeIfls v).params = s.params := rfl
@[simp] theorem State.writeIfls_program : (s.writeIfls v).program = s.program := rfl
@[simp] theorem State.writeIfls_schedule : (s.writeIfls v).schedule = s.schedule := rfl
@[simp] theorem State.writeIfls_draws : (s.writeIfls v).draws = s.draws := rfl

end

/-! ## The cell IMSC -/

section
variable (s : State) (v : Word)

@[simp] theorem State.writeImsc_ibrd : (s.writeImsc v).ibrd = s.ibrd := rfl
@[simp] theorem State.writeImsc_fbrd : (s.writeImsc v).fbrd = s.fbrd := rfl
@[simp] theorem State.writeImsc_lcrh : (s.writeImsc v).lcrh = s.lcrh := rfl
@[simp] theorem State.writeImsc_cr : (s.writeImsc v).cr = s.cr := rfl
@[simp] theorem State.writeImsc_ifls : (s.writeImsc v).ifls = s.ifls := rfl
@[simp] theorem State.writeImsc_imsc : (s.writeImsc v).imsc = imscOperand s.params.layout v := rfl
@[simp] theorem State.writeImsc_baudLatch : (s.writeImsc v).baudLatch = s.baudLatch := rfl
@[simp] theorem State.writeImsc_txFifo : (s.writeImsc v).txFifo = s.txFifo := rfl
@[simp] theorem State.writeImsc_rxFifo : (s.writeImsc v).rxFifo = s.rxFifo := rfl
@[simp] theorem State.writeImsc_txShift : (s.writeImsc v).txShift = s.txShift := rfl
@[simp] theorem State.writeImsc_wireOut : (s.writeImsc v).wireOut = s.wireOut := rfl
@[simp] theorem State.writeImsc_call : (s.writeImsc v).call = s.call := rfl
@[simp] theorem State.writeImsc_readData : (s.writeImsc v).readData = s.readData := rfl
@[simp] theorem State.writeImsc_divisor : (s.writeImsc v).divisor = s.divisor := rfl
@[simp] theorem State.writeImsc_returned : (s.writeImsc v).returned = s.returned := rfl
@[simp] theorem State.writeImsc_bindings : (s.writeImsc v).bindings = s.bindings := rfl
@[simp] theorem State.writeImsc_base : (s.writeImsc v).base = s.base := rfl
@[simp] theorem State.writeImsc_blockBase : (s.writeImsc v).blockBase = s.blockBase := rfl
@[simp] theorem State.writeImsc_params : (s.writeImsc v).params = s.params := rfl
@[simp] theorem State.writeImsc_program : (s.writeImsc v).program = s.program := rfl
@[simp] theorem State.writeImsc_schedule : (s.writeImsc v).schedule = s.schedule := rfl
@[simp] theorem State.writeImsc_draws : (s.writeImsc v).draws = s.draws := rfl

end

/-! ## A read of DR -/

section
variable (s : State)

@[simp] theorem State.readDr_ibrd : (s.readDr).ibrd = s.ibrd := rfl
@[simp] theorem State.readDr_fbrd : (s.readDr).fbrd = s.fbrd := rfl
@[simp] theorem State.readDr_lcrh : (s.readDr).lcrh = s.lcrh := rfl
@[simp] theorem State.readDr_cr : (s.readDr).cr = s.cr := rfl
@[simp] theorem State.readDr_ifls : (s.readDr).ifls = s.ifls := rfl
@[simp] theorem State.readDr_imsc : (s.readDr).imsc = s.imsc := rfl
@[simp] theorem State.readDr_baudLatch : (s.readDr).baudLatch = s.baudLatch := rfl
@[simp] theorem State.readDr_txFifo : (s.readDr).txFifo = s.txFifo := rfl
@[simp] theorem State.readDr_rxFifo : (s.readDr).rxFifo = s.rxFifo.tail := rfl
@[simp] theorem State.readDr_txShift : (s.readDr).txShift = s.txShift := rfl
@[simp] theorem State.readDr_wireOut : (s.readDr).wireOut = s.wireOut := rfl
@[simp] theorem State.readDr_call : (s.readDr).call = s.call := rfl
@[simp] theorem State.readDr_readData : (s.readDr).readData = s.dataReg.word s.params.layout := rfl
@[simp] theorem State.readDr_divisor : (s.readDr).divisor = s.divisor := rfl
@[simp] theorem State.readDr_returned : (s.readDr).returned = s.returned := rfl
@[simp] theorem State.readDr_bindings : (s.readDr).bindings = s.bindings := rfl
@[simp] theorem State.readDr_base : (s.readDr).base = s.base := rfl
@[simp] theorem State.readDr_blockBase : (s.readDr).blockBase = s.blockBase := rfl
@[simp] theorem State.readDr_params : (s.readDr).params = s.params := rfl
@[simp] theorem State.readDr_program : (s.readDr).program = s.program := rfl
@[simp] theorem State.readDr_schedule : (s.readDr).schedule = s.schedule := rfl
@[simp] theorem State.readDr_draws : (s.readDr).draws = s.draws + 1 := rfl

end

/-! ## A read of FR -/

section
variable (s : State)

@[simp] theorem State.readFr_ibrd : (s.readFr).ibrd = s.ibrd := rfl
@[simp] theorem State.readFr_fbrd : (s.readFr).fbrd = s.fbrd := rfl
@[simp] theorem State.readFr_lcrh : (s.readFr).lcrh = s.lcrh := rfl
@[simp] theorem State.readFr_cr : (s.readFr).cr = s.cr := rfl
@[simp] theorem State.readFr_ifls : (s.readFr).ifls = s.ifls := rfl
@[simp] theorem State.readFr_imsc : (s.readFr).imsc = s.imsc := rfl
@[simp] theorem State.readFr_baudLatch : (s.readFr).baudLatch = s.baudLatch := rfl
@[simp] theorem State.readFr_txFifo : (s.readFr).txFifo = s.txFifo := rfl
@[simp] theorem State.readFr_rxFifo : (s.readFr).rxFifo = s.rxFifo := rfl
@[simp] theorem State.readFr_txShift : (s.readFr).txShift = s.txShift := rfl
@[simp] theorem State.readFr_wireOut : (s.readFr).wireOut = s.wireOut := rfl
@[simp] theorem State.readFr_call : (s.readFr).call = s.call := rfl
@[simp] theorem State.readFr_readData : (s.readFr).readData = s.flagReg.word s.params.layout := rfl
@[simp] theorem State.readFr_divisor : (s.readFr).divisor = s.divisor := rfl
@[simp] theorem State.readFr_returned : (s.readFr).returned = s.returned := rfl
@[simp] theorem State.readFr_bindings : (s.readFr).bindings = s.bindings := rfl
@[simp] theorem State.readFr_base : (s.readFr).base = s.base := rfl
@[simp] theorem State.readFr_blockBase : (s.readFr).blockBase = s.blockBase := rfl
@[simp] theorem State.readFr_params : (s.readFr).params = s.params := rfl
@[simp] theorem State.readFr_program : (s.readFr).program = s.program := rfl
@[simp] theorem State.readFr_schedule : (s.readFr).schedule = s.schedule := rfl
@[simp] theorem State.readFr_draws : (s.readFr).draws = s.draws + 4 := rfl

end

/-! ## BASE -/

section
variable (s : State) (base : Option Nat)

@[simp] theorem State.setBase_ibrd : (s.setBase base).ibrd = s.ibrd := rfl
@[simp] theorem State.setBase_fbrd : (s.setBase base).fbrd = s.fbrd := rfl
@[simp] theorem State.setBase_lcrh : (s.setBase base).lcrh = s.lcrh := rfl
@[simp] theorem State.setBase_cr : (s.setBase base).cr = s.cr := rfl
@[simp] theorem State.setBase_ifls : (s.setBase base).ifls = s.ifls := rfl
@[simp] theorem State.setBase_imsc : (s.setBase base).imsc = s.imsc := rfl
@[simp] theorem State.setBase_baudLatch : (s.setBase base).baudLatch = s.baudLatch := rfl
@[simp] theorem State.setBase_txFifo : (s.setBase base).txFifo = s.txFifo := rfl
@[simp] theorem State.setBase_rxFifo : (s.setBase base).rxFifo = s.rxFifo := rfl
@[simp] theorem State.setBase_txShift : (s.setBase base).txShift = s.txShift := rfl
@[simp] theorem State.setBase_wireOut : (s.setBase base).wireOut = s.wireOut := rfl
@[simp] theorem State.setBase_call : (s.setBase base).call = s.call := rfl
@[simp] theorem State.setBase_readData : (s.setBase base).readData = s.readData := rfl
@[simp] theorem State.setBase_divisor : (s.setBase base).divisor = s.divisor := rfl
@[simp] theorem State.setBase_returned : (s.setBase base).returned = s.returned := rfl
@[simp] theorem State.setBase_bindings : (s.setBase base).bindings = s.bindings := rfl
@[simp] theorem State.setBase_base : (s.setBase base).base = base.getD (s.bindings.head?.getD s.base) := rfl
@[simp] theorem State.setBase_blockBase : (s.setBase base).blockBase = s.blockBase := rfl
@[simp] theorem State.setBase_params : (s.setBase base).params = s.params := rfl
@[simp] theorem State.setBase_program : (s.setBase base).program = s.program := rfl
@[simp] theorem State.setBase_schedule : (s.setBase base).schedule = s.schedule := rfl
@[simp] theorem State.setBase_draws : (s.setBase base).draws = s.draws := rfl

end

/-! ## The reset of the block -/

section
variable (s : State)

@[simp] theorem State.resetBlock_ibrd : (s.resetBlock).ibrd = s.params.resetState.ibrd := rfl
@[simp] theorem State.resetBlock_fbrd : (s.resetBlock).fbrd = s.params.resetState.fbrd := rfl
@[simp] theorem State.resetBlock_lcrh : (s.resetBlock).lcrh = s.params.resetState.lcrh := rfl
@[simp] theorem State.resetBlock_cr : (s.resetBlock).cr = s.params.resetState.cr := rfl
@[simp] theorem State.resetBlock_ifls : (s.resetBlock).ifls = s.params.resetState.ifls := rfl
@[simp] theorem State.resetBlock_imsc : (s.resetBlock).imsc = s.params.resetState.imsc := rfl
@[simp] theorem State.resetBlock_baudLatch : (s.resetBlock).baudLatch = s.params.resetState.baudLatch := rfl
@[simp] theorem State.resetBlock_txFifo : (s.resetBlock).txFifo = s.params.resetState.txFifo := rfl
@[simp] theorem State.resetBlock_rxFifo : (s.resetBlock).rxFifo = s.params.resetState.rxFifo := rfl
@[simp] theorem State.resetBlock_txShift : (s.resetBlock).txShift = s.params.resetState.txShift := rfl
@[simp] theorem State.resetBlock_wireOut : (s.resetBlock).wireOut = [] := rfl
@[simp] theorem State.resetBlock_call : (s.resetBlock).call = none := rfl
@[simp] theorem State.resetBlock_readData : (s.resetBlock).readData = s.readData := rfl
@[simp] theorem State.resetBlock_divisor : (s.resetBlock).divisor = s.divisor := rfl
@[simp] theorem State.resetBlock_returned : (s.resetBlock).returned = s.returned := rfl
@[simp] theorem State.resetBlock_bindings : (s.resetBlock).bindings = s.bindings := rfl
@[simp] theorem State.resetBlock_base : (s.resetBlock).base = s.base := rfl
@[simp] theorem State.resetBlock_blockBase : (s.resetBlock).blockBase = s.blockBase := rfl
@[simp] theorem State.resetBlock_params : (s.resetBlock).params = s.params := rfl
@[simp] theorem State.resetBlock_program : (s.resetBlock).program = s.program := rfl
@[simp] theorem State.resetBlock_schedule : (s.resetBlock).schedule = s.schedule := rfl
@[simp] theorem State.resetBlock_draws : (s.resetBlock).draws = s.draws := rfl

end

/-! ## The program of the bus master -/

section
variable (s : State) (rest : List Item)

@[simp] theorem State.setProgram_ibrd : (s.setProgram rest).ibrd = s.ibrd := rfl
@[simp] theorem State.setProgram_fbrd : (s.setProgram rest).fbrd = s.fbrd := rfl
@[simp] theorem State.setProgram_lcrh : (s.setProgram rest).lcrh = s.lcrh := rfl
@[simp] theorem State.setProgram_cr : (s.setProgram rest).cr = s.cr := rfl
@[simp] theorem State.setProgram_ifls : (s.setProgram rest).ifls = s.ifls := rfl
@[simp] theorem State.setProgram_imsc : (s.setProgram rest).imsc = s.imsc := rfl
@[simp] theorem State.setProgram_baudLatch : (s.setProgram rest).baudLatch = s.baudLatch := rfl
@[simp] theorem State.setProgram_txFifo : (s.setProgram rest).txFifo = s.txFifo := rfl
@[simp] theorem State.setProgram_rxFifo : (s.setProgram rest).rxFifo = s.rxFifo := rfl
@[simp] theorem State.setProgram_txShift : (s.setProgram rest).txShift = s.txShift := rfl
@[simp] theorem State.setProgram_wireOut : (s.setProgram rest).wireOut = s.wireOut := rfl
@[simp] theorem State.setProgram_call : (s.setProgram rest).call = s.call := rfl
@[simp] theorem State.setProgram_readData : (s.setProgram rest).readData = s.readData := rfl
@[simp] theorem State.setProgram_divisor : (s.setProgram rest).divisor = s.divisor := rfl
@[simp] theorem State.setProgram_returned : (s.setProgram rest).returned = s.returned := rfl
@[simp] theorem State.setProgram_bindings : (s.setProgram rest).bindings = s.bindings := rfl
@[simp] theorem State.setProgram_base : (s.setProgram rest).base = s.base := rfl
@[simp] theorem State.setProgram_blockBase : (s.setProgram rest).blockBase = s.blockBase := rfl
@[simp] theorem State.setProgram_params : (s.setProgram rest).params = s.params := rfl
@[simp] theorem State.setProgram_program : (s.setProgram rest).program = rest := rfl
@[simp] theorem State.setProgram_schedule : (s.setProgram rest).schedule = s.schedule := rfl
@[simp] theorem State.setProgram_draws : (s.setProgram rest).draws = s.draws := rfl

end

/-! ## The turn -/

section
variable (s : State)

@[simp] theorem State.afterTurn_ibrd : s.afterTurn.ibrd = s.ibrd := by
  unfold State.afterTurn; split <;> rfl
@[simp] theorem State.afterTurn_fbrd : s.afterTurn.fbrd = s.fbrd := by
  unfold State.afterTurn; split <;> rfl
@[simp] theorem State.afterTurn_lcrh : s.afterTurn.lcrh = s.lcrh := by
  unfold State.afterTurn; split <;> rfl
@[simp] theorem State.afterTurn_cr : s.afterTurn.cr = s.cr := by
  unfold State.afterTurn; split <;> rfl
@[simp] theorem State.afterTurn_ifls : s.afterTurn.ifls = s.ifls := by
  unfold State.afterTurn; split <;> rfl
@[simp] theorem State.afterTurn_imsc : s.afterTurn.imsc = s.imsc := by
  unfold State.afterTurn; split <;> rfl
@[simp] theorem State.afterTurn_baudLatch : s.afterTurn.baudLatch = s.baudLatch := by
  unfold State.afterTurn; split <;> rfl
@[simp] theorem State.afterTurn_txFifo : s.afterTurn.txFifo = s.txFifo := by
  unfold State.afterTurn; split <;> rfl
@[simp] theorem State.afterTurn_rxFifo : s.afterTurn.rxFifo = s.rxFifo := by
  unfold State.afterTurn; split <;> rfl
@[simp] theorem State.afterTurn_txShift : s.afterTurn.txShift = s.txShift := by
  unfold State.afterTurn; split <;> rfl
@[simp] theorem State.afterTurn_wireOut : s.afterTurn.wireOut = s.wireOut := by
  unfold State.afterTurn; split <;> rfl
@[simp] theorem State.afterTurn_call : s.afterTurn.call = s.call := by
  unfold State.afterTurn; split <;> rfl
@[simp] theorem State.afterTurn_readData : s.afterTurn.readData = s.readData := by
  unfold State.afterTurn; split <;> rfl
@[simp] theorem State.afterTurn_divisor : s.afterTurn.divisor = s.divisor := by
  unfold State.afterTurn; split <;> rfl
@[simp] theorem State.afterTurn_returned : s.afterTurn.returned = s.returned := by
  unfold State.afterTurn; split <;> rfl
@[simp] theorem State.afterTurn_bindings : s.afterTurn.bindings = s.bindings := by
  unfold State.afterTurn; split <;> rfl
@[simp] theorem State.afterTurn_base : s.afterTurn.base = s.base := by
  unfold State.afterTurn; split <;> rfl
@[simp] theorem State.afterTurn_blockBase : s.afterTurn.blockBase = s.blockBase := by
  unfold State.afterTurn; split <;> rfl
@[simp] theorem State.afterTurn_params : s.afterTurn.params = s.params := by
  unfold State.afterTurn; split <;> rfl
@[simp] theorem State.afterTurn_program : s.afterTurn.program = s.program := by
  unfold State.afterTurn; split <;> rfl

end

/-! ## What the derived flags and tests depend on -/

section
variable (s : State)

@[simp] theorem State.afterTurn_txCap : s.afterTurn.txCap = s.txCap := by simp [State.txCap]
@[simp] theorem State.afterTurn_rxCap : s.afterTurn.rxCap = s.rxCap := by simp [State.rxCap]
@[simp] theorem State.afterTurn_txff : s.afterTurn.txff = s.txff := by simp [State.txff]
@[simp] theorem State.afterTurn_rxfe : s.afterTurn.rxfe = s.rxfe := by simp [State.rxfe]
@[simp] theorem State.afterTurn_baseOk : s.afterTurn.baseOk = s.baseOk := by simp [State.baseOk]
@[simp] theorem State.afterTurn_lineAdmitted : s.afterTurn.lineAdmitted = s.lineAdmitted := by
  simp [State.lineAdmitted]
@[simp] theorem State.afterTurn_txLoadEnabled : s.afterTurn.txLoadEnabled = s.txLoadEnabled := by
  simp [State.txLoadEnabled]
@[simp] theorem State.afterTurn_rxEnabled : s.afterTurn.rxEnabled = s.rxEnabled := by
  simp [State.rxEnabled]

@[simp] theorem State.setProgram_txCap (rest : List Item) : (s.setProgram rest).txCap = s.txCap := rfl
@[simp] theorem State.setProgram_rxCap (rest : List Item) : (s.setProgram rest).rxCap = s.rxCap := rfl
@[simp] theorem State.setProgram_baseOk (rest : List Item) : (s.setProgram rest).baseOk = s.baseOk := rfl
@[simp] theorem State.setBase_txCap (base : Option Nat) : (s.setBase base).txCap = s.txCap := rfl
@[simp] theorem State.setBase_rxCap (base : Option Nat) : (s.setBase base).rxCap = s.rxCap := rfl
@[simp] theorem State.setCall_txCap (c : Option Call) : (s.setCall c).txCap = s.txCap := rfl
@[simp] theorem State.setCall_rxCap (c : Option Call) : (s.setCall c).rxCap = s.rxCap := rfl
@[simp] theorem State.setCall_baseOk (c : Option Call) : (s.setCall c).baseOk = s.baseOk := rfl
@[simp] theorem State.returning_baseOk (v : Word) : (s.returning v).baseOk = s.baseOk := rfl
@[simp] theorem State.spend_baseOk (k : Nat) : (s.spend k).baseOk = s.baseOk := rfl
@[simp] theorem State.readFr_txCap : s.readFr.txCap = s.txCap := rfl
@[simp] theorem State.readFr_rxCap : s.readFr.rxCap = s.rxCap := rfl
@[simp] theorem State.readFr_baseOk : s.readFr.baseOk = s.baseOk := rfl

end

end Sys2Proof.Machine
end

