-- ==== Sys2Proof/Laws/Ops.lean ====
section
/-! SUPPORT. For each shared operation and each meaning with more than one outcome, what it can do when it
answers a next state; and the bits of the words that reads return. -/

namespace Sys2Proof.Machine

/-! ## Sequencing -/

/-- A result is the next state `t`: written with the unknown on the left, so that `rfl` patterns and
`simp` use it. -/
theorem next_eq_next {s t : State} : (Host.Outcome.next s : Result) = .next t ↔ t = s :=
  ⟨fun h => (Host.Outcome.next.inj h).symm, fun h => h ▸ rfl⟩

theorem Result.andThen_eq_next {r : Result} {k : State → Result} {t : State} :
    r.andThen k = .next t ↔ ∃ u, r = .next u ∧ k u = .next t := by
  cases r <;> simp [Result.andThen]

@[simp] theorem Result.andThen_next (s : State) (k : State → Result) :
    Result.andThen (.next s) k = k s := rfl

@[simp] theorem Result.andThen_refused (v : Refusal) (k : State → Result) :
    Result.andThen (.refused v) k = .refused v := rfl

theorem State.withBase_eq_next {s t : State} {r : Result} :
    s.withBase r = .next t ↔ s.baseOk = true ∧ r = .next t := by
  unfold State.withBase; split <;> simp_all

theorem State.withBase_of_baseOk {s : State} {r : Result} (h : s.baseOk = true) : s.withBase r = r := by
  simp [State.withBase, h]

theorem State.withBase_of_bad {s : State} {r : Result} (h : s.baseOk = false) :
    s.withBase r = .refused .badBase := by
  simp [State.withBase, h]

/-- What a good BASE is, part by part (R41). -/
theorem State.baseOk_iff {s : State} :
    s.baseOk = true ↔ s.base = s.blockBase ∧ s.blockBase % 4 = 0 ∧ s.bindings.count s.base ≤ 1 := by
  simp [State.baseOk, and_assoc]

/-! ## Writes of DR and LCR_H -/

theorem State.writeDr_eq_next {s t : State} {v : Word} :
    s.writeDr v = .next t ↔
      s.txFifo.length < s.txCap ∧ t = { s with txFifo := s.txFifo ++ [dataOperand v] } := by
  unfold State.writeDr; split <;> simp_all [next_eq_next, -Host.Outcome.next.injEq]

theorem State.writeLcrh_eq_next {s t : State} {v : Word} :
    s.writeLcrh v = .next t ↔
      s.fenChangeBlocked (lcrhOperand s.params.layout v) = false ∧
      (s.lineControlChanges (lcrhOperand s.params.layout v) && s.txShift.isSome) = false ∧
      t = { s with lcrh := lcrhOperand s.params.layout v, baudLatch := s.cellDivisor } := by
  unfold State.writeLcrh
  split
  · simp_all
  · split <;> simp_all [next_eq_next, -Host.Outcome.next.injEq]

/-- A write of LCR_H that is not blocked either keeps FEN or finds both queues empty (R99). -/
theorem State.fenChangeBlocked_eq_false {s : State} {new : Word}
    (h : s.fenChangeBlocked new = false) :
    lcrhFen s.params.layout new = lcrhFen s.params.layout s.lcrh ∨ (s.txFifo = [] ∧ s.rxFifo = []) := by
  simp only [State.fenChangeBlocked, Bool.and_eq_false_iff, Bool.or_eq_false_iff, bne_eq_false_iff_eq,
    decide_eq_false_iff_not, Nat.not_lt, Nat.le_zero, List.length_eq_zero_iff] at h
  exact h

/-- A write of LCR_H with the value held and an unchanged divisor changes nothing and is never refused
(R99 a). -/
theorem State.writeLcrh_same {s : State} {v : Word} (hv : lcrhOperand s.params.layout v = s.lcrh)
    (hl : s.cellDivisor = s.baudLatch) : s.writeLcrh v = .next s := by
  simp [State.writeLcrh, State.fenChangeBlocked, State.lineControlChanges, hv, hl]

@[simp] theorem dataOperand_zext32 (b : Byte) : dataOperand (zext32 b) = b := by
  simp [dataOperand, zext32]

/-! ## Reads of DR -/

theorem State.dataReg_cons {s : State} {d : Byte} {rest : List Byte} (h : s.rxFifo = d :: rest) :
    s.dataReg = ⟨d, s.draw 4 0⟩ := by simp [State.dataReg, h]

/-! ## Initialization (R140) -/

theorem initPhase_eq_next {c b : Nat} {ph : InitPhase} {s t : State} :
    initPhase c b ph s = .next t ↔ s.baseOk = true ∧
      (match ph with
       | .I0 => t = (s.writeIbrd (s.params.divisor c b).intOperand).setCall (some (.init c b .I1))
       | .I1 => t = (s.writeFbrd (s.params.divisor c b).fracOperand).setCall (some (.init c b .I2))
       | .I2 => ∃ u, s.writeLcrh (lcrhInit s.params.layout) = .next u ∧ t = u.setCall (some (.init c b .I3))
       | .I3 => t = (s.writeCr (crInit s.params.layout)).setCall none) := by
  unfold initPhase
  rw [State.withBase_eq_next]
  cases ph <;> simp [Result.andThen_eq_next, next_eq_next, -Host.Outcome.next.injEq]

/-- `INIT` starts, or goes on in its phase (R140). -/
theorem execInit_eq_next {c b : Nat} {s t : State} :
    execInit c b s = .next t ↔ s.params.baud b ≠ 0 ∧
      ((s.call = none ∧ initPhase c b .I0 { s with divisor := s.params.divisor c b } = .next t) ∨
       (∃ ph, s.call = some (.init c b ph) ∧ initPhase c b ph s = .next t)) := by
  unfold execInit
  by_cases hb : s.params.baud b = 0
  · simp [hb]
  · rcases hc : s.call with _ | ⟨c', b', ph⟩ | _ | _ | _ | _
    case some.init =>
      by_cases h : c' = c ∧ b' = b
      · obtain ⟨rfl, rfl⟩ := h; simp [hb]
      · simp [hb, h]
    all_goals simp [hb]

/-! ## Transfers (R150 to R153) -/

theorem sendPhase_eq_next {at_ : XferPhase → Call} {after : Option Call} {b : Byte} {ph : XferPhase}
    {s t : State} :
    sendPhase at_ after b ph s = .next t ↔ s.baseOk = true ∧
      (match ph with
       | .POLL => t = s.readFr.setCall (some (at_ (if s.txff then .POLL else .ACT)))
       | .ACT => s.txFifo.length < s.txCap ∧
           t = ({ s with txFifo := s.txFifo ++ [b] }).setCall after) := by
  unfold sendPhase
  rw [State.withBase_eq_next]
  cases ph
  · simp [next_eq_next, -Host.Outcome.next.injEq, State.flagReg]
    exact fun _ => Iff.rfl
  · simp only [Result.andThen_eq_next, State.writeDr_eq_next, dataOperand_zext32]
    constructor
    · rintro ⟨h, u, ⟨h1, rfl⟩, h2⟩; exact ⟨h, h1, next_eq_next.mp h2⟩
    · rintro ⟨h, h1, rfl⟩; exact ⟨h, _, ⟨h1, rfl⟩, rfl⟩

theorem receivePhase_eq_next {ph : XferPhase} {s t : State} :
    receivePhase ph s = .next t ↔ s.baseOk = true ∧
      (match ph with
       | .POLL => t = s.readFr.setCall (some (.readByte (if s.rxfe then .POLL else .ACT)))
       | .ACT => t = ({ s.readDr with returned := s.returned ++ [s.dataReg.data] }).setCall none) := by
  unfold receivePhase
  rw [State.withBase_eq_next]
  cases ph <;> simp [next_eq_next, -Host.Outcome.next.injEq, State.flagReg]
  exact fun _ => Iff.rfl

theorem sendSequence_eq_next {bytes : List Byte} {at_ : Nat → XferPhase → Call} {i : Nat}
    {ph : XferPhase} {s t : State} :
    sendSequence bytes at_ i ph s = .next t ↔
      (bytes.length ≤ i ∧ t = s.setCall none) ∨
      (∃ b, bytes[i]? = some b ∧
        sendPhase (at_ i) (if i + 1 < bytes.length then some (at_ (i + 1) .POLL) else none) b ph s
          = .next t) := by
  unfold sendSequence
  cases h : bytes[i]? with
  | none => simp [List.getElem?_eq_none_iff.mp h, next_eq_next, -Host.Outcome.next.injEq]
  | some b =>
    have : ¬ bytes.length ≤ i := by
      intro h'; rw [List.getElem?_eq_none_iff.mpr h'] at h; cases h
    simp [this]

theorem execWriteByte_eq_next {b : Byte} {s t : State} :
    execWriteByte b s = .next t ↔
      ∃ ph, ((s.call = none ∧ ph = .POLL) ∨ s.call = some (.writeByte b ph)) ∧
        sendPhase (.writeByte b) none b ph s = .next t := by
  unfold execWriteByte
  rcases hc : s.call with _ | _ | ⟨b', ph⟩ | _ | _ | _
  case some.writeByte =>
    by_cases h : b' = b
    · subst h; simp
    · simp [h]
  all_goals simp

theorem execReadByte_eq_next {s t : State} :
    execReadByte s = .next t ↔
      ∃ ph, ((s.call = none ∧ ph = .POLL) ∨ s.call = some (.readByte ph)) ∧
        receivePhase ph s = .next t := by
  unfold execReadByte
  rcases hc : s.call with _ | _ | _ | _ | _ | _ <;> simp

theorem execWriteBytes_eq_next {bytes : List Byte} {s t : State} :
    execWriteBytes bytes s = .next t ↔
      ∃ i ph, ((s.call = none ∧ i = 0 ∧ ph = .POLL) ∨ s.call = some (.writeBytes bytes i ph)) ∧
        sendSequence bytes (.writeBytes bytes) i ph s = .next t := by
  unfold execWriteBytes
  rcases hc : s.call with _ | _ | _ | _ | ⟨bytes', i, ph⟩ | _
  case some.writeBytes =>
    by_cases h : bytes' = bytes
    · subst h; simp
    · simp [h]
  all_goals simp

theorem execWriteStr_eq_next {text : List Char} {s t : State} :
    execWriteStr text s = .next t ↔
      ∃ i ph, ((s.call = none ∧ i = 0 ∧ ph = .POLL) ∨ s.call = some (.writeStr text i ph)) ∧
        sendSequence (s.params.encode text) (.writeStr text) i ph s = .next t := by
  unfold execWriteStr
  rcases hc : s.call with _ | _ | _ | _ | _ | ⟨text', i, ph⟩
  case some.writeStr =>
    by_cases h : text' = text
    · subst h; simp
    · simp [h]
  all_goals simp

/-! ## The line side (R170 to R174) -/

theorem State.txLoadEnabled_iff {s : State} :
    s.txLoadEnabled = true ↔
      crUarten s.params.layout s.cr = true ∧ crTxe s.params.layout s.cr = true ∧ s.txShift = none ∧ s.txFifo ≠ [] := by
  simp [State.txLoadEnabled, and_assoc, List.length_pos_iff]

theorem execTxLoad_eq_next {s t : State} :
    execTxLoad s = .next t ↔
      (s.txLoadEnabled = false ∧ t = s) ∨
      (s.txLoadEnabled = true ∧ s.lineAdmitted = true ∧
        ∃ b rest, s.txFifo = b :: rest ∧ t = { s with txShift := some b, txFifo := rest }) := by
  unfold execTxLoad
  cases h : s.txLoadEnabled
  · simp [next_eq_next, -Host.Outcome.next.injEq]
  · obtain ⟨-, -, -, hne⟩ := State.txLoadEnabled_iff.mp h
    obtain ⟨b, rest, hf⟩ := List.exists_cons_of_ne_nil hne
    cases h' : s.lineAdmitted <;> simp [hf, next_eq_next, -Host.Outcome.next.injEq]

theorem execTxDone_eq_next {s t : State} :
    execTxDone s = .next t ↔
      (s.txShift = none ∧ t = s) ∨
      (∃ b, s.txShift = some b ∧ t = { s with wireOut := s.wireOut ++ [b], txShift := none }) := by
  unfold execTxDone
  cases h : s.txShift <;> simp [next_eq_next, -Host.Outcome.next.injEq]

theorem execRxArrive_eq_next {d : Byte} {s t : State} :
    execRxArrive d s = .next t ↔
      (s.rxEnabled = false ∧ t = s) ∨
      (s.rxEnabled = true ∧ s.lineAdmitted = true ∧ s.rxCap ≤ s.rxFifo.length ∧ t = s) ∨
      (s.rxEnabled = true ∧ s.lineAdmitted = true ∧ s.rxFifo.length < s.rxCap ∧
        t = { s with rxFifo := s.rxFifo ++ [d] }) := by
  unfold execRxArrive
  cases h : s.rxEnabled
  · simp [next_eq_next, -Host.Outcome.next.injEq]
  · cases h' : s.lineAdmitted
    · simp
    · by_cases hl : s.rxFifo.length < s.rxCap
      · simp [hl, next_eq_next, -Host.Outcome.next.injEq, Nat.not_le.mpr hl]
      · simp [hl, next_eq_next, -Host.Outcome.next.injEq, Nat.not_lt.mp hl]

end Sys2Proof.Machine
end

