-- ==== Sys2Proof/Laws/PerInstr.lean ====
section
/-! SUPPORT. Laws stated of every instruction as syntax, one lemma per constructor. -/

namespace Sys2Proof.Laws

/-- The word of a well-formed operation has a word-aligned offset, in every layout (R45, R61). -/
def OffsetAligned.Statement (i : Instr) : Prop :=
  ∀ L : Layout, L.wf = true → i.wf L = true → ∀ t, encode L i = some t → wordAligned (offsetOf t) = true

/-- An operation whose word is a transaction at the offset of a register. -/
theorem OffsetAligned.of_reg {i : Instr} {write : Bool} {v : Word} (r : Reg)
    (h : ∀ L : Layout, i.busForm L = some (write, r.offset L, v)) : OffsetAligned.Statement i := by
  intro L hL _ t ht
  simp only [encode, h, Option.some.injEq] at ht
  simp [← ht, Reg.wordAligned_offset hL]

/-- An operation whose word is a transaction at a reserved offset. -/
theorem OffsetAligned.of_reserved {i : Instr} {write : Bool} {off : Offset} {v : Word}
    (h : ∀ L : Layout, i.busForm L = some (write, off, v)) (hw : ∀ L : Layout, i.wf L = L.reserved off) :
    OffsetAligned.Statement i := by
  intro L _ hi t ht
  simp only [encode, h, Option.some.injEq] at ht
  simp [← ht, (Layout.reserved_iff.mp (hw L ▸ hi)).1]

/-- An operation that is no bus transaction has no word. -/
theorem OffsetAligned.of_none {i : Instr} (h : ∀ L : Layout, encode L i = none) :
    OffsetAligned.Statement i := by
  intro L _ _ t ht; rw [h] at ht; cases ht

theorem OffsetAligned.rdDr : OffsetAligned.Statement .rdDr :=
  OffsetAligned.of_reg .dr fun _ => rfl

theorem OffsetAligned.wrDr (v : Word) : OffsetAligned.Statement (.wrDr v) :=
  OffsetAligned.of_reg .dr fun _ => rfl

theorem OffsetAligned.rdFr : OffsetAligned.Statement .rdFr :=
  OffsetAligned.of_reg .fr fun _ => rfl

theorem OffsetAligned.wrFr (v : Word) : OffsetAligned.Statement (.wrFr v) :=
  OffsetAligned.of_reg .fr fun _ => rfl

theorem OffsetAligned.rdIbrd : OffsetAligned.Statement .rdIbrd :=
  OffsetAligned.of_reg .ibrd fun _ => rfl

theorem OffsetAligned.wrIbrd (v : Word) : OffsetAligned.Statement (.wrIbrd v) :=
  OffsetAligned.of_reg .ibrd fun _ => rfl

theorem OffsetAligned.rdFbrd : OffsetAligned.Statement .rdFbrd :=
  OffsetAligned.of_reg .fbrd fun _ => rfl

theorem OffsetAligned.wrFbrd (v : Word) : OffsetAligned.Statement (.wrFbrd v) :=
  OffsetAligned.of_reg .fbrd fun _ => rfl

theorem OffsetAligned.rdLcrh : OffsetAligned.Statement .rdLcrh :=
  OffsetAligned.of_reg .lcrh fun _ => rfl

theorem OffsetAligned.wrLcrh (v : Word) : OffsetAligned.Statement (.wrLcrh v) :=
  OffsetAligned.of_reg .lcrh fun _ => rfl

theorem OffsetAligned.rdCr : OffsetAligned.Statement .rdCr :=
  OffsetAligned.of_reg .cr fun _ => rfl

theorem OffsetAligned.wrCr (v : Word) : OffsetAligned.Statement (.wrCr v) :=
  OffsetAligned.of_reg .cr fun _ => rfl

theorem OffsetAligned.rdIfls : OffsetAligned.Statement .rdIfls :=
  OffsetAligned.of_reg .ifls fun _ => rfl

theorem OffsetAligned.wrIfls (v : Word) : OffsetAligned.Statement (.wrIfls v) :=
  OffsetAligned.of_reg .ifls fun _ => rfl

theorem OffsetAligned.rdImsc : OffsetAligned.Statement .rdImsc :=
  OffsetAligned.of_reg .imsc fun _ => rfl

theorem OffsetAligned.wrImsc (v : Word) : OffsetAligned.Statement (.wrImsc v) :=
  OffsetAligned.of_reg .imsc fun _ => rfl

theorem OffsetAligned.rdRis : OffsetAligned.Statement .rdRis :=
  OffsetAligned.of_reg .ris fun _ => rfl

theorem OffsetAligned.wrRis (v : Word) : OffsetAligned.Statement (.wrRis v) :=
  OffsetAligned.of_reg .ris fun _ => rfl

theorem OffsetAligned.rdMis : OffsetAligned.Statement .rdMis :=
  OffsetAligned.of_reg .mis fun _ => rfl

theorem OffsetAligned.wrMis (v : Word) : OffsetAligned.Statement (.wrMis v) :=
  OffsetAligned.of_reg .mis fun _ => rfl

theorem OffsetAligned.rdIcr : OffsetAligned.Statement .rdIcr :=
  OffsetAligned.of_reg .icr fun _ => rfl

theorem OffsetAligned.wrIcr (v : Word) : OffsetAligned.Statement (.wrIcr v) :=
  OffsetAligned.of_reg .icr fun _ => rfl

theorem OffsetAligned.rdReserved (off : Offset) : OffsetAligned.Statement (.rdReserved off) :=
  OffsetAligned.of_reserved (fun _ => rfl) fun _ => rfl

theorem OffsetAligned.wrReserved (off : Offset) (v : Word) : OffsetAligned.Statement (.wrReserved off v) :=
  OffsetAligned.of_reserved (fun _ => rfl) fun _ => rfl

theorem OffsetAligned.bauddiv (c : Nat) (b : Nat) : OffsetAligned.Statement (.bauddiv c b) :=
  OffsetAligned.of_none fun _ => rfl

theorem OffsetAligned.init (c : Nat) (b : Nat) : OffsetAligned.Statement (.init c b) :=
  OffsetAligned.of_none fun _ => rfl

theorem OffsetAligned.writeByte (b : Byte) : OffsetAligned.Statement (.writeByte b) :=
  OffsetAligned.of_none fun _ => rfl

theorem OffsetAligned.readByte : OffsetAligned.Statement .readByte :=
  OffsetAligned.of_none fun _ => rfl

theorem OffsetAligned.writeBytes (s : List Byte) : OffsetAligned.Statement (.writeBytes s) :=
  OffsetAligned.of_none fun _ => rfl

theorem OffsetAligned.writeStr (s : List Char) : OffsetAligned.Statement (.writeStr s) :=
  OffsetAligned.of_none fun _ => rfl

theorem OffsetAligned.bind (base : Nat) : OffsetAligned.Statement (.bind base) :=
  OffsetAligned.of_none fun _ => rfl

theorem OffsetAligned.txLoad : OffsetAligned.Statement .txLoad :=
  OffsetAligned.of_none fun _ => rfl

theorem OffsetAligned.txDone : OffsetAligned.Statement .txDone :=
  OffsetAligned.of_none fun _ => rfl

theorem OffsetAligned.rxArrive (d : Byte) : OffsetAligned.Statement (.rxArrive d) :=
  OffsetAligned.of_none fun _ => rfl

theorem OffsetAligned.modemChange : OffsetAligned.Statement .modemChange :=
  OffsetAligned.of_none fun _ => rfl

theorem OffsetAligned.reset : OffsetAligned.Statement .reset :=
  OffsetAligned.of_none fun _ => rfl

end Sys2Proof.Laws
end

