-- ==== Sys2Proof/Laws/Step.lean ====
section
/-! SUPPORT. What a step runs, and what it can do when it answers a next state. -/

namespace Sys2Proof.Machine

/-! ## What a step runs -/

theorem Turn.instr?_eq_none {t : Turn} : t.instr? = none ↔ t = .master ∨ ∃ item, t = .context item := by
  cases t <;> simp [Turn.instr?]

/-- A turn of a hardware agent or of reset fetches that agent's step. -/
theorem fetch_of_hardware {s : State} {i : Instr} (h : s.turn.instr? = some i) :
    fetch s = .next (some i, s.afterTurn) := by
  unfold fetch
  cases ht : s.turn <;> simp_all [Turn.instr?]

theorem step_of_hardware {s : State} {i : Instr} (h : s.turn.instr? = some i) :
    step s = exec i s.afterTurn := by simp [step, fetch_of_hardware h]

/-- A turn of the bus master is `fetchMaster`. -/
theorem fetch_of_master {s : State} (h : s.turn = .master) : fetch s = fetchMaster s.afterTurn := by
  simp [fetch, h]

theorem fetch_of_context {s : State} {item : Item} (h : s.turn = .context item) :
    fetch s = fetchContext item s.afterTurn := by
  simp [fetch, h]

/-- On the bus master's turn the running operation goes on. -/
theorem fetch_of_call {s : State} {c : Call} (h : s.turn = .master) (hc : s.call = some c) :
    fetch s = .next (some c.instr, s.afterTurn) := by simp [fetch_of_master h, fetchMaster, hc]

theorem step_of_call {s : State} {c : Call} (h : s.turn = .master) (hc : s.call = some c) :
    step s = exec c.instr s.afterTurn := by simp [step, fetch_of_call h hc]

/-- A bus master with nothing to do is idle. -/
theorem step_of_idle {s : State} (h : s.turn = .master) (hc : s.call = none) (hp : s.program = []) :
    step s = .next s.afterTurn := by simp [step, fetch_of_master h, fetchMaster, hc, hp]

/-- The bus master issues the entry at the head of its program. -/
theorem fetch_of_item {s : State} {item : Item} {rest : List Item} (h : s.turn = .master)
    (hc : s.call = none) (hp : s.program = item :: rest) :
    fetch s = fetchItem item (s.afterTurn.setProgram rest) := by
  rw [fetch_of_master h, fetchMaster, State.afterTurn_call, hc, State.afterTurn_program, hp]

/-- A driver call at the head of the program runs, with the BASE it passes. -/
theorem step_of_programCall {s : State} {base : Option Nat} {op : DriverOp} {rest : List Item}
    (h : s.turn = .master) (hc : s.call = none) (hp : s.program = ⟨base, .call op⟩ :: rest) :
    step s = exec op.instr ((s.afterTurn.setProgram rest).setBase base) := by
  simp [step, fetch_of_item h hc hp, fetchItem, fetchRequest]

/-- A transaction word at the head of the program runs the operation it decodes to. -/
theorem step_of_word {s : State} {base : Option Nat} {t : Transaction} {i : Instr} {rest : List Item}
    (h : s.turn = .master) (hc : s.call = none) (hp : s.program = ⟨base, .word t⟩ :: rest)
    (hd : decode s.params.layout t = .ok i) :
    step s = exec i ((s.afterTurn.setProgram rest).setBase base) := by
  simp [step, fetch_of_item h hc hp, fetchItem, fetchRequest, fetchWord, hd]

@[simp] theorem State.turn_of_schedule {s : State} {t : Turn} {rest : List Turn}
    (h : s.schedule = t :: rest) : s.turn = t := by simp [State.turn, h]

theorem State.afterTurn_of_schedule {s : State} {t : Turn} {rest : List Turn}
    (h : s.schedule = t :: rest) : s.afterTurn = { s with schedule := rest } := by
  simp [State.afterTurn, h]

/-! ## What a step can do -/

/-- Fetching a word changes nothing but what runs. -/
theorem fetchWord_eq_next {t : Transaction} {s : State} {f : Fetched} (h : fetchWord t s = .next f) :
    ∃ i, f = (some i, s) := by
  unfold fetchWord at h
  split at h
  · exact ⟨_, (Host.Outcome.next.inj h).symm⟩
  · cases h
  · cases h

/-- Fetching what an entry asks for changes nothing but what runs. -/
theorem fetchRequest_eq_next {r : Request} {s : State} {f : Fetched} (h : fetchRequest r s = .next f) :
    ∃ i, f = (some i, s) := by
  cases r with
  | word t => exact fetchWord_eq_next h
  | call op => exact ⟨_, (Host.Outcome.next.inj h).symm⟩
  | access a =>
    simp only [fetchRequest, fetchAccess] at h
    split at h
    · cases h
    · split at h
      · cases h
      · split at h
        · cases h
        · exact fetchWord_eq_next h

/-- In the middle of an operation, another context can only calculate a divisor or bind an instance (R199). -/
theorem fetchContext_of_call {item : Item} {s : State} {c : Call} {f : Fetched} (hc : s.call = some c)
    (h : fetchContext item s = .next f) :
    (∃ c b, f = (some (.bauddiv c b), s)) ∨ ∃ base, f = (some (.bind base), s) := by
  simp only [fetchContext, hc] at h
  obtain ⟨base, r⟩ := item
  rcases r with t | a | op
  · simp [Request.sharesBlock] at h
  · simp [Request.sharesBlock] at h
  · cases op <;> simp [Request.sharesBlock, fetchRequest, DriverOp.instr] at h <;> simp [← h]

/-- Every step that answers a next state is one of five: the step of a hardware agent or of reset, the running
operation going on, an entry being issued between two operations (of the program or of another context), another
context's divisor or binding in the middle of an operation, or an idle bus master. -/
theorem step_cases {s t : State} (h : step s = .next t) :
    (∃ i, s.turn.instr? = some i ∧ exec i s.afterTurn = .next t) ∨
    (s.turn = .master ∧ ∃ c, s.call = some c ∧ exec c.instr s.afterTurn = .next t) ∨
    (s.turn.instr? = none ∧ s.call = none ∧ ∃ i base program,
      fetch s = .next (some i, (s.afterTurn.setProgram program).setBase base) ∧
      exec i ((s.afterTurn.setProgram program).setBase base) = .next t) ∨
    (∃ item c i, s.turn = .context item ∧ s.call = some c ∧
      ((∃ c b, i = .bauddiv c b) ∨ ∃ base, i = .bind base) ∧ exec i s.afterTurn = .next t) ∨
    (s.turn = .master ∧ s.call = none ∧ s.program = [] ∧ t = s.afterTurn) := by
  cases hi : s.turn.instr? with
  | some i => exact .inl ⟨i, rfl, by rwa [step_of_hardware hi] at h⟩
  | none =>
    rcases Turn.instr?_eq_none.mp hi with hm | ⟨item, hm⟩
    · cases hc : s.call with
      | some c => exact .inr (.inl ⟨hm, c, rfl, by rwa [step_of_call hm hc] at h⟩)
      | none =>
        cases hp : s.program with
        | nil =>
          rw [step_of_idle hm hc hp, next_eq_next] at h
          exact .inr (.inr (.inr (.inr ⟨hm, rfl, rfl, h⟩)))
        | cons item rest =>
          refine .inr (.inr (.inl ⟨rfl, rfl, ?_⟩))
          unfold step at h
          cases hf : fetch s with
          | fault f => rw [hf] at h; cases h
          | refused r => rw [hf] at h; cases h
          | next f =>
            have hf' := hf
            rw [fetch_of_item hm hc hp] at hf'
            obtain ⟨i, rfl⟩ := fetchRequest_eq_next hf'
            rw [hf] at h
            exact ⟨i, item.base, rest, rfl, h⟩
    · unfold step at h
      cases hf : fetch s with
      | fault f => rw [hf] at h; cases h
      | refused r => rw [hf] at h; cases h
      | next f =>
        have hf' := hf
        rw [fetch_of_context hm] at hf'
        rw [hf] at h
        cases hc : s.call with
        | none =>
          simp only [fetchContext, State.afterTurn_call, hc] at hf'
          obtain ⟨i, rfl⟩ := fetchRequest_eq_next hf'
          exact .inr (.inr (.inl ⟨rfl, rfl, i, item.base, s.afterTurn.program, rfl, h⟩))
        | some c =>
          refine .inr (.inr (.inr (.inl ?_)))
          rcases fetchContext_of_call (c := c) (by simp [hc]) hf' with ⟨c', b', rfl⟩ | ⟨base, rfl⟩
          · exact ⟨item, c, _, hm, rfl, .inl ⟨c', b', rfl⟩, h⟩
          · exact ⟨item, c, _, hm, rfl, .inr ⟨base, rfl⟩, h⟩

/-! ## Runs -/

@[simp] theorem run_zero (s : State) : run 0 s = .next s := rfl

theorem run_succ (n : Nat) (s : State) : run (n + 1) s = Result.andThen (step s) (run n) := rfl

theorem run_succ_eq_next {n : Nat} {s t : State} :
    run (n + 1) s = .next t ↔ ∃ u, step s = .next u ∧ run n u = .next t := by
  rw [run_succ, Result.andThen_eq_next]

theorem run_add_eq_next {m n : Nat} {s t : State} :
    run (m + n) s = .next t ↔ ∃ u, run m s = .next u ∧ run n u = .next t := by
  induction m generalizing s with
  | zero => simp [next_eq_next, -Host.Outcome.next.injEq]
  | succ m ih =>
    rw [Nat.succ_add, run_succ_eq_next]
    simp only [run_succ_eq_next, ih]
    constructor
    · rintro ⟨u, h1, v, h2, h3⟩; exact ⟨v, ⟨u, h1, h2⟩, h3⟩
    · rintro ⟨v, ⟨u, h1, h2⟩, h3⟩; exact ⟨u, h1, v, h2, h3⟩

end Sys2Proof.Machine
end

