-- ==== Sys2Proof/Tests/Slice0.lean ====
section
/-! SUPPORT. Tests. Expected values are those of spec/95_test_vectors.md (vector names in the comments) or
of the rules' own examples; and, for each obligation with hypotheses, a concrete input that meets them. -/

namespace Sys2Proof.Tests

open Sys2Proof.Machine

/-! ## Helpers -/

/-- A field of the next state. -/
def field {α : Type} (f : State → α) : Result → Option α
  | .next s => some (f s)
  | _ => none

/-- The refusal a result ends in. -/
def stop : Result → Option Refusal
  | .refused r => some r
  | _ => none

/-- The reset state with a driver instance bound to the block's base. -/
def bound : State := { State.reset with bindings := [0] }

/-- The "post-INIT state" of spec/95_test_vectors.md. -/
def postInit : State :=
  { bound with ibrd := 27, fbrd := 8, lcrh := 0x70, cr := 0x0301, baudLatch := ⟨27, 8⟩ }

/-- Sixteen bytes. -/
def sixteen : List Byte := (List.range 16).map (BitVec.ofNat 8)

/-- The default layout. -/
def D : Layout := Layout.default

/-- FR with the four modem draws taken as 0. -/
def frWord (s : State) : Word :=
  { s.flagReg with cts := false, dsr := false, dcd := false, ri := false : FlagReg }.word D

/-- A state whose next turn is the bus master's, with one program entry on the newest instance's base. -/
def ready (s : State) (r : Request) : State := { s with schedule := [.master], program := [⟨none, r⟩] }

/-- A state whose next turn is another context's, with an entry on the newest instance's base. -/
def interrupted (s : State) (r : Request) : State := { s with schedule := [.context ⟨none, r⟩] }

/-- A layout that is not the default one: other offsets, other bit positions, other widths. -/
def other : Layout :=
  { Layout.default with
    blockSize := 0x80
    off := { Offsets.default with dr := 0x044, icr := 0x000 }
    fr := { FrBits.default with txff := 13 }
    lcrh := { LcrhBits.default with wlen := 2, eps := 6, stp2 := 5 }
    cr := { CrBits.default with txe := 4 }
    width := { Widths.default with ibrd := 12, baud := 20 } }

/-- The word decodes to the operation. -/
def decodes (w : Nat) (i : Instr) : Bool := decodeTableWord 48 w == some i

/-! ## Well-formedness: ill-formed terms are refused -/

theorem test_wf_refuses_listed_read : Instr.wf D (.rdReserved 0x018) = false := by decide
theorem test_wf_refuses_misaligned_read : Instr.wf D (.rdReserved 0x005) = false := by decide
theorem test_wf_refuses_listed_write : Instr.wf D (.wrReserved 0x000 1) = false := by decide
theorem test_wf_refuses_misaligned_write : Instr.wf D (.wrReserved 0xFFE 1) = false := by decide
theorem test_wf_refuses_reserved_outside : Instr.wf other (.rdReserved 0x080) = false := by decide
theorem test_wf_refuses_odd_base : Instr.wf D (.bind 0x10009002) = false := by decide
theorem test_wf_refuses_wide_clock : Instr.wf D (.bauddiv (2 ^ 32) 1) = false := by decide
theorem test_wf_refuses_wide_baud : Instr.wf D (.init 1 (2 ^ 32)) = false := by decide
theorem test_wf_accepts :
    Instr.wf D (.rdReserved 0x004) && Instr.wf D (.wrReserved 0xFFC 1) && Instr.wf D (.bind 0x10009000) &&
    Instr.wf D (.bauddiv 4294967295 0) && Instr.wf D (.init 4294967295 4294967295) = true := by decide

/-! ## Layouts: those that are none are refused -/

theorem test_layout_accepts : D.wf && other.wf = true := by decide
theorem test_layout_refuses_double_offset :
    Layout.wf { D with off := { Offsets.default with icr := 0x040 } } = false := by decide
theorem test_layout_refuses_misaligned_offset :
    Layout.wf { D with off := { Offsets.default with icr := 0x046 } } = false := by decide
theorem test_layout_refuses_offset_outside : Layout.wf { D with blockSize := 0x44 } = false := by decide
theorem test_layout_refuses_large_block : Layout.wf { D with blockSize := 0x2000 } = false := by decide
theorem test_layout_refuses_wide_cell :
    Layout.wf { D with width := { Widths.default with ibrd := 33 } } = false := by decide
theorem test_layout_refuses_double_bits :
    Layout.wf { D with fr := { FrBits.default with txff := 4 } } = false ∧
    Layout.wf { D with dr := { DrBits.default with fe := 7 } } = false ∧
    Layout.wf { D with lcrh := { LcrhBits.default with wlen := 6 } } = false ∧
    Layout.wf { D with cr := { CrBits.default with ctsEn := 16 } } = false ∧
    Layout.wf { D with int := { InterruptBits.default with oe := 11 } } = false ∧
    Layout.wf { D with int := { InterruptBits.default with rxLevel := 2 } } = false := by decide

/-! ## Decoding: one word per constructor, written from the encodings of R90 to R112 -/

theorem test_decode_data_and_flag :
    decodes 0x000000000000 .rdDr && decodes 0x100000000148 (.wrDr 0x148) &&
    decodes 0x001800000000 .rdFr && decodes 0x1018FFFFFFFF (.wrFr 0xFFFFFFFF) = true := by decide

theorem test_decode_divisor :
    decodes 0x002400000000 .rdIbrd && decodes 0x10240001001B (.wrIbrd 0x1001B) &&
    decodes 0x002800000000 .rdFbrd && decodes 0x102800000048 (.wrFbrd 0x48) = true := by decide

theorem test_decode_control :
    decodes 0x002C00000000 .rdLcrh && decodes 0x102C00000170 (.wrLcrh 0x170) &&
    decodes 0x003000000000 .rdCr && decodes 0x1030FFFF0301 (.wrCr 0xFFFF0301) = true := by decide

theorem test_decode_interrupt :
    decodes 0x003400000000 .rdIfls && decodes 0x1034000000FF (.wrIfls 0xFF) &&
    decodes 0x003800000000 .rdImsc && decodes 0x1038FFFFFFFF (.wrImsc 0xFFFFFFFF) &&
    decodes 0x003C00000000 .rdRis && decodes 0x103C00000001 (.wrRis 1) &&
    decodes 0x004000000000 .rdMis && decodes 0x104000000001 (.wrMis 1) &&
    decodes 0x004400000000 .rdIcr && decodes 0x1044000007FF (.wrIcr 0x7FF) = true := by decide

/-- A19. -/
theorem test_decode_reserved :
    decodes 0x000400000000 (.rdReserved 0x004) && decodes 0x104800000000 (.wrReserved 0x048 0) &&
    decodes 0x0FE000000000 (.rdReserved 0xFE0) = true := by decide

theorem test_decode_rejects :
    decodeTableWord 48 0x100100000000 = none ∧ decodeTableWord 48 0x200000000000 = none := by decide

/-- The encoder gives the words of P1 and P5. -/
theorem test_encode_words :
    encode D (.wrIbrd 0x145) = some 0x102400000145 ∧ encode D (.wrFbrd 0x21) = some 0x102800000021 ∧
    encode D (.wrLcrh 0x70) = some 0x102C00000070 ∧ encode D (.wrCr 0x301) = some 0x103000000301 ∧
    encode D .rdFr = some 0x001800000000 ∧ encode D .txLoad = none := by decide

/-- In another layout the same words are other accesses, and some are outside the window. -/
theorem test_decode_other_layout :
    decode other 0x004400000000 = .ok .rdDr ∧ decode other 0x100000000001 = .ok (.wrIcr 1) ∧
    decode other 0x008000000000 = .error .outsideWindow ∧ decode other 0x007E00000000 = .error .misalignedOffset :=
  ⟨rfl, rfl, rfl, rfl⟩

/-! ## Fields and assembled operands (R66 to R73) -/

theorem test_lcrh_fields :
    lcrhWlen D 0x60 = 3 ∧ lcrhFen D 0x10 = true ∧ lcrhBrk D 0x01 = true ∧ lcrhPen D 0x02 = true ∧
    lcrhEps D 0x04 = true ∧ lcrhStp2 D 0x08 = true ∧ lcrhSps D 0x80 = true ∧ lcrhInit D = 0x70 ∧
    lcrhInit other = 0x1C := by decide

theorem test_cr_fields :
    crUarten D 0x0001 = true ∧ crTxe D 0x0100 = true ∧ crRxe D 0x0200 = true ∧ crLbe D 0x0080 = true ∧
    crSiren D 0x0002 = true ∧ crSirlp D 0x0004 = true ∧ crDtr D 0x0400 = true ∧ crRts D 0x0800 = true ∧
    crOut1 D 0x1000 = true ∧ crOut2 D 0x2000 = true ∧ crRtsEn D 0x4000 = true ∧ crCtsEn D 0x8000 = true ∧
    crInit D = 0x301 ∧ crOtherBits D 0xFFFF = 0xFCFE ∧ crInit other = 0x211 := by decide

theorem test_interrupt_fields :
    iflsTxLevel D 0x12 = 2 ∧ iflsRxLevel D 0x12 = 2 ∧ interruptBit 0x400 D.int.oe = true := by decide

/-! ## Register access (vectors A1 to A28) -/

/-- A14: the oldest byte is popped and stands in [7:0]. -/
theorem test_rdDr_pops :
    field (·.rxFifo) (exec .rdDr { State.reset with rxFifo := [0x41, 0x42] }) = some [0x42] ∧
    State.dataReg { State.reset with rxFifo := [0x41, 0x42] } = ⟨0x41, State.reset.draw 4 0⟩ :=
  ⟨by decide, rfl⟩

/-- A15. -/
theorem test_rdDr_empty : field (·.rxFifo) (exec .rdDr State.reset) = some [] := by decide

/-- A12. -/
theorem test_wrDr_pushes_low_byte :
    field (fun t => (t.txFifo, frWord t)) (exec (.wrDr 0x141) postInit) = some ([0x41], 0x18) := by decide

/-- A13. -/
theorem test_wrDr_full : stop (exec (.wrDr 0x41) { postInit with txFifo := sixteen }) = some .txOverflow := by
  decide

/-- F1 to F5. -/
theorem test_rdFr_flags :
    frWord postInit = 0x090 ∧ frWord { postInit with txFifo := [1] } = 0x018 ∧
    frWord { postInit with txShift := some 1 } = 0x098 ∧
    frWord { postInit with txFifo := sixteen, txShift := some 1 } = 0x038 ∧
    frWord { postInit with rxFifo := [1] } = 0x080 := by decide

/-- F6 to F10. -/
theorem test_rdFr_flags_full :
    frWord { postInit with rxFifo := sixteen } = 0x0C0 ∧
    frWord { postInit with txFifo := sixteen, rxFifo := sixteen } = 0x068 ∧
    frWord { postInit with txFifo := sixteen.tail, txShift := some 1, rxFifo := sixteen.tail } = 0x008 ∧
    frWord { postInit with lcrh := 0x60, txFifo := [1] } = 0x038 ∧
    frWord { postInit with lcrh := 0x60, rxFifo := [1] } = 0x0C0 := by decide

/-- A16. -/
theorem test_wrFr_ignored : exec (.wrFr 0xFFFFFFFF) postInit = .next postInit := rfl

/-- A21: the cell, not the latch. -/
theorem test_rdIbrd : field (·.readData) (exec .rdIbrd { postInit with ibrd := 13 }) = some 13 := by decide

/-- A6: bits [31:16] are dropped, the latch stays. -/
theorem test_wrIbrd :
    field (fun t => (t.ibrd, t.baudLatch)) (exec (.wrIbrd 0x1001B) State.reset) = some (0x1B, ⟨0, 0⟩) := by
  decide

theorem test_rdFbrd : field (·.readData) (exec .rdFbrd postInit) = some 8 := by decide

/-- A7. -/
theorem test_wrFbrd :
    field (fun t => (t.fbrd, t.baudLatch)) (exec (.wrFbrd 0x48) State.reset) = some (8, ⟨0, 0⟩) := by decide

theorem test_rdLcrh : field (·.readData) (exec .rdLcrh postInit) = some 0x70 := by decide

/-- A8, A22: the latch is loaded by every write. -/
theorem test_wrLcrh_loads_latch :
    field (fun t => (t.lcrh, t.baudLatch, t.txCap)) (exec (.wrLcrh 0x170) State.reset)
      = some (0x70, ⟨0, 0⟩, 16) ∧
    field (·.baudLatch) (exec (.wrLcrh 0x70) { postInit with ibrd := 13 }) = some ⟨13, 8⟩ := by decide

/-- A23, A25, A26, A27. -/
theorem test_wrLcrh_refusals :
    stop (exec (.wrLcrh 0x60) { postInit with txFifo := [0x41] }) = some .fenChangeNonempty ∧
    field (·.baudLatch) (exec (.wrLcrh 0x70) { postInit with txShift := some 0x55 }) = some ⟨27, 8⟩ ∧
    stop (exec (.wrLcrh 0x72) { postInit with txShift := some 0x55 }) = some .reconfigInFlight ∧
    stop (exec (.wrLcrh 0x70) { postInit with txShift := some 0x55, ibrd := 13 })
      = some .reconfigInFlight := by decide

/-- A2. -/
theorem test_rdCr : field (·.readData) (exec .rdCr State.reset) = some 0x300 := by decide

/-- A9. -/
theorem test_wrCr : field (·.cr) (exec (.wrCr 0xFFFF0301) State.reset) = some 0x301 := by decide

/-- A3, A10. -/
theorem test_ifls :
    field (·.readData) (exec .rdIfls State.reset) = some 0x12 ∧
    field (·.ifls) (exec (.wrIfls 0xFF) State.reset) = some 0x3F := by decide

/-- A4, A11. -/
theorem test_imsc :
    field (·.readData) (exec .rdImsc { State.reset with imsc := 0x7FF }) = some 0x7FF ∧
    field (·.imsc) (exec (.wrImsc 0xFFFFFFFF) State.reset) = some 0x7FF := by decide

/-- A18: with IMSC = 0, MIS reads 0. -/
theorem test_rdMis : field (·.readData) (exec .rdMis State.reset) = some 0 := by
  have h : execRdMis State.reset
      = .next ((State.reset.returning (State.reset.interruptDraw &&& State.reset.imsc)).spend 1) :=
    State.withBase_of_baseOk (by decide)
  show field _ (execRdMis State.reset) = _
  rw [h]; simp [field, State.reset, ResetState.default]

/-- A17, A18: reads of RIS and ICR change nothing of the block. -/
theorem test_rdRis_rdIcr :
    field (fun t => (t.imsc, t.rxFifo, t.cr)) (exec .rdRis postInit) = some (0, [], 0x301) ∧
    field (fun t => (t.imsc, t.rxFifo, t.cr)) (exec .rdIcr postInit) = some (0, [], 0x301) := by decide

/-- R108, R109: ignored writes. -/
theorem test_ignored_writes :
    exec (.wrRis 1) postInit = .next postInit ∧ exec (.wrMis 1) postInit = .next postInit ∧
    exec (.wrIcr 0x7FF) postInit = .next postInit := ⟨rfl, rfl, rfl⟩

/-- A19. -/
theorem test_reserved_refused :
    stop (exec (.rdReserved 0x004) postInit) = some .reservedOffset ∧
    stop (exec (.wrReserved 0x048 0) postInit) = some .reservedOffset := by decide

/-- A20: other sizes and misaligned offsets. -/
theorem test_bad_access :
    stop (step (ready bound (.access ⟨.owner, false, 0x018, 2, 0⟩))) = some .badAccess ∧
    stop (step (ready bound (.access ⟨.owner, true, 0x001, 4, 0⟩))) = some .badAccess ∧
    stop (step (ready bound (.access ⟨.owner, true, 0x000, 1, 0x41⟩))) = some .badAccess := by decide

/-- R41: after BIND 0; BIND 0 a word, as an access and a call, is on a bad base; so is a word that passes another
base than the block's, and none that passes the block's own. -/
theorem test_bad_base :
    let twice : State := { State.reset with bindings := [0, 0] }
    stop (step (ready twice (.word 0x001800000000))) = some .badBase ∧
    stop (step (ready twice (.access ⟨.owner, false, 0x018, 4, 0⟩))) = some .badBase ∧
    stop (step (ready twice (.call .readByte))) = some .badBase ∧
    stop (step { bound with schedule := [.master], program := [⟨some 0x1000, .word 0x001800000000⟩] })
      = some .badBase ∧
    field (·.ibrd) (step { bound with schedule := [.master], program := [⟨some 0, .word 0x10240000001B⟩] })
      = some 27 := by decide

/-- R40, R60: an access past the window reaches no block. -/
theorem test_outside_window :
    stop (step (ready bound (.access ⟨.owner, false, 0x1000, 4, 0⟩))) = some .outsideWindow ∧
    stop (step (ready { bound with params := { Params.default with layout := other } } (.word 0x008000000000)))
      = some .outsideWindow := by decide

/-- R199: another context in the middle of READ_BYTE calls READ_BYTE, and writes DR; and between two operations. -/
theorem test_context :
    let reading : State := { postInit with call := some (.readByte .POLL) }
    stop (step (interrupted reading (.call .readByte))) = some .sharedAccess ∧
    stop (step (interrupted reading (.word 0x100000000041))) = some .sharedAccess ∧
    field (·.divisor) (step (interrupted reading (.call (.bauddiv 50000000 115200)))) = some ⟨27, 8⟩ ∧
    field (·.txFifo) (step (interrupted postInit (.word 0x100000000041))) = some [0x41] := by decide

/-! ## Other parameters (R4, R37) -/

/-- A layout with TXFF at bit 13, a 12-bit IBRD, `RESET_STATE` and `ENCODE` of another machine. -/
theorem test_other_parameters :
    let p : Params := { Params.default with
      layout := other, encodeTable := [('\n', [0x0D, 0x0A])]
      resetState := { ResetState.default with cr := 0, rxFifo := [7] } }
    (FlagReg.word other ⟨false, false, false, false, false, true, false, false, false⟩ = 0x2000) ∧
    field (·.ibrd) (exec (.wrIbrd 0x1001B) { bound with params := p }) = some 0x01B ∧
    field (·.ibrd) (exec (.wrIbrd 0xFFFF) { bound with params := p }) = some 0xFFF ∧
    field (fun t => (t.cr, t.rxFifo)) (exec .reset { postInit with params := p }) = some (0, [7]) ∧
    p.encode ['A', '\n'] = [0x41, 0x0D, 0x0A] := by decide

/-! ## The divisor calculator and INIT (vectors B1 to B43, I1 to I6) -/

/-- B1, B11, B20, B31. -/
theorem test_bauddiv :
    field (·.divisor) (exec (.bauddiv 50000000 115200) State.reset) = some ⟨27, 8⟩ ∧
    field (·.divisor) (exec (.bauddiv 255 8) State.reset) = some ⟨1, 0⟩ ∧
    field (·.divisor) (exec (.bauddiv 4294967295 1) State.reset) = some ⟨268435455, 60⟩ ∧
    field (·.divisor) (exec (.bauddiv 24000000 57700) State.reset) = some ⟨25, 0⟩ := by decide

/-- B10, B41, B42 under both tie rules; B43. -/
theorem test_bauddiv_ties :
    baudDivisor .halfUp 129 8 = ⟨1, 1⟩ ∧ baudDivisor .halfEven 129 8 = ⟨1, 0⟩ ∧
    baudDivisor .halfUp 50000000 25600 = ⟨122, 5⟩ ∧ baudDivisor .halfEven 50000000 25600 = ⟨122, 4⟩ ∧
    baudDivisor .halfUp 1000000 12800 = ⟨4, 57⟩ ∧ baudDivisor .halfEven 1000000 12800 = ⟨4, 56⟩ ∧
    stop (exec (.bauddiv 50000000 0) State.reset) = some .zeroBaud := by decide

/-- I1, first write; I5, its truncation; I6. -/
theorem test_init_first_write :
    field (fun t => (t.ibrd, t.call)) (exec (.init 50000000 115200) bound)
      = some (27, some (.init 50000000 115200 .I1)) ∧
    field (·.ibrd) (exec (.init 1048576 1) bound) = some 0 ∧
    stop (exec (.init 50000000 0) bound) = some .zeroBaud := by decide

/-- I1, third write; X7. -/
theorem test_init_third_write :
    field (fun t => (t.lcrh, t.baudLatch)) (exec (.init 50000000 115200)
      { bound with ibrd := 27, fbrd := 8, call := some (.init 50000000 115200 .I2) }) = some (0x70, ⟨27, 8⟩) ∧
    stop (exec (.init 50000000 115200)
      { bound with txFifo := [0x41], call := some (.init 50000000 115200 .I2) })
      = some .fenChangeNonempty := by decide

/-! ## Transfers (vectors T1 to T12) -/

/-- T2, T4: TXFF = 0 ends the poll, TXFF = 1 does not. -/
theorem test_writeByte_poll :
    field (·.call) (exec (.writeByte 0x7E) { postInit with txFifo := sixteen.tail })
      = some (some (.writeByte 0x7E .ACT)) ∧
    field (·.call) (exec (.writeByte 0x55) { postInit with txFifo := sixteen })
      = some (some (.writeByte 0x55 .POLL)) := by decide

/-- T1. -/
theorem test_writeByte_act :
    field (fun t => (t.txFifo, t.call)) (exec (.writeByte 0x48)
      { postInit with call := some (.writeByte 0x48 .ACT) }) = some ([0x48], none) := by decide

/-- T9, T11. -/
theorem test_readByte :
    field (fun t => (t.returned, t.rxFifo, t.call)) (exec .readByte
      { postInit with rxFifo := [0x41, 0x42], call := some (.readByte .ACT) }) = some ([0x41], [0x42], none) ∧
    field (·.call) (exec .readByte postInit) = some (some (.readByte .POLL)) := by decide

/-- T5, T6. -/
theorem test_writeBytes :
    exec (.writeBytes []) postInit = .next postInit ∧
    field (fun t => (t.txFifo, t.call)) (exec (.writeBytes [0x48, 0x69])
      { postInit with call := some (.writeBytes [0x48, 0x69] 0 .ACT) })
      = some ([0x48], some (.writeBytes [0x48, 0x69] 1 .POLL)) := ⟨rfl, by decide⟩

/-- T7, T8. -/
theorem test_writeStr :
    encodeText [] ['A', '\n'] = [0x41, 0x0A] ∧ encodeText [] ['é'] = [0xC3, 0xA9] ∧
    field (fun t => (t.txFifo, t.call)) (exec (.writeStr ['é'])
      { postInit with txFifo := [0xC3], call := some (.writeStr ['é'] 1 .ACT) })
      = some ([0xC3, 0xA9], none) := by decide

/-! ## The line side, reset, binding (vectors L1 to L13, X1) -/

/-- L1, L2, L8, L11. -/
theorem test_txLoad :
    field (fun t => (t.txShift, t.txFifo, frWord t)) (exec .txLoad { postInit with txFifo := [0x48, 0x69] })
      = some (some 0x48, [0x69], 0x018) ∧
    field (·.txFifo) (exec .txLoad { postInit with txFifo := [0x69], txShift := some 0x48 }) = some [0x69] ∧
    field (·.txFifo) (exec .txLoad { State.reset with txFifo := [0x41] }) = some [0x41] ∧
    field (·.txShift) (exec .txLoad { postInit with lcrh := 0x76, txFifo := [0x41] })
      = some (some 0x41) := by decide

/-- L9, L13. -/
theorem test_txLoad_refused :
    stop (exec .txLoad { postInit with cr := 0x0381, txFifo := [0x41] }) = some .lineConfig ∧
    stop (exec .txLoad { postInit with baudLatch := ⟨0, 35⟩, txFifo := [0x41] }) = some .lineConfig := by decide

/-- L3, L12: the enables do not matter. -/
theorem test_txDone :
    field (fun t => (t.wireOut, t.txShift)) (exec .txDone
      { postInit with cr := 0x0201, txFifo := [0x41], txShift := some 0x40 }) = some ([0x40], none) := by decide

/-- L5, L6, L7. -/
theorem test_rxArrive :
    field (fun t => (t.rxFifo, frWord t)) (exec (.rxArrive 0x41) postInit) = some ([0x41], 0x080) ∧
    field (·.rxFifo) (exec (.rxArrive 0x99) { postInit with rxFifo := sixteen }) = some sixteen ∧
    field (·.rxFifo) (exec (.rxArrive 0x41) State.reset) = some [] := by decide

/-- L10. -/
theorem test_rxArrive_refused :
    stop (exec (.rxArrive 0x41) { postInit with lcrh := 0x50 }) = some .lineConfig := by decide

theorem test_modemChange : exec .modemChange postInit = .next postInit := rfl

/-- X1. -/
theorem test_reset :
    exec .reset { postInit with txFifo := [1, 2], txShift := some 0, rxFifo := [9] } = .next bound ∧
    frWord bound = 0x90 := ⟨rfl, by decide⟩

/-- R212(1), R41(c). -/
theorem test_bind :
    exec (.bind 0) State.reset = .next bound ∧
    stop (step (ready { bound with bindings := [4] } (.call .readByte))) = some .badBase := ⟨rfl, by decide⟩

/-! ## A step runs a word from reset -/

theorem test_step_runs_word :
    field (·.ibrd) (step (State.reset.withFetchWord 48 0x10240000001B)) = some 27 ∧
    field (·.cr) (step (State.reset.withFetchWord 48 0x103000000301)) = some 0x301 ∧
    stop (step (State.reset.withFetchWord 48 0x000400000000)) = some .reservedOffset := by decide

/-- R191: the condition codes. -/
theorem test_codes :
    Refusal.code .badBase = 1 ∧ Refusal.code .lineConfig = 9 ∧ Hazard.code .divisorOrder = 101 ∧
    Hazard.code .rxOverrun = 108 := by decide

/-! ## Hazards (R191, R214 to R221; log 28) -/

/-- An execution that starts with the states given and stays in the last. -/
def starts (first : List State) (last : State) (n : Nat) : State := first[n]?.getD last

/-- X2: LCR_H before IBRD. -/
theorem test_hazard_divisorOrder :
    let ρ := starts [ready bound (.word 0x102C00000070), ready bound (.word 0x10240000001B)]
      { bound with lcrh := 0x70, ibrd := 27 }
    Hazard.met .divisorOrder ρ 0 := by
  refine ⟨by decide, .inl ⟨by decide, ?_, 1, by decide, by decide, by decide, ?_⟩⟩
  · rintro ⟨⟨m, hm, -⟩, -⟩; omega
  · intro k h1 h2; obtain rfl : k = 1 := by omega
    decide

/-- R214: INIT respects the order. -/
theorem test_hazard_divisorOrder_init :
    let init := { bound with ibrd := 27, schedule := [.master], call := some (.init 50000000 115200 .I1) }
    ¬ Hazard.met .divisorOrder (starts [] init) 0 := fun h => absurd h.1 (by decide)

/-- R214: a divisor written and never loaded. -/
theorem test_hazard_divisorOrder_never :
    Hazard.met .divisorOrder (starts [ready bound (.word 0x10240000001B)] { bound with ibrd := 27, schedule := [.modemChange] }) 0 := by
  refine ⟨by decide, .inr ⟨by decide, fun m hm => ?_⟩⟩
  obtain ⟨m, rfl⟩ : ∃ k, m = k + 1 := ⟨m - 1, by omega⟩
  exact ⟨rfl, rfl⟩

/-- R216: two writes of DR, no poll between; and one after a poll. -/
theorem test_hazard_txNoPoll :
    let wr := ready postInit (.word 0x100000000001)
    let rd := ready postInit (.word 0x001800000000)
    Hazard.met .txNoPoll (starts [wr] wr) 1 ∧ ¬ Hazard.met .txNoPoll (starts [rd] wr) 1 := by
  refine ⟨⟨by decide, ?_⟩, fun h => h.2 ⟨0, by decide, by decide, fun k h1 h2 => by omega⟩⟩
  rintro ⟨m, hm, h, -⟩
  obtain rfl : m = 0 := by omega
  exact absurd h (by decide)

/-- R90, R217: RD FR with RXFE = 0, RESET, RD DR on an empty FIFO; and no poll at all. -/
theorem test_hazard_rxUnderflow :
    let poll := ready { postInit with rxFifo := [1] } (.word 0x001800000000)
    let read := ready postInit (.word 0x000000000000)
    Hazard.met .rxUnderflow (starts [poll, { postInit with rxFifo := [1], schedule := [.reset] }] read) 2 ∧
    Hazard.met .rxUnderflow (starts [] { read with rxFifo := [1] }) 0 :=
  ⟨⟨by decide, .inl rfl⟩, by decide, .inr fun ⟨_, h, _⟩ => by omega⟩

/-- R194: a poll that never ends; R193: one that ends is no hazard. -/
theorem test_hazard_hang :
    let poll : State := { postInit with schedule := [.master], call := some (.readByte .POLL) }
    Hazard.met .hang (starts [] poll) 0 ∧ ¬ Hazard.met .hang (starts [poll] postInit) 0 :=
  ⟨⟨⟨_, rfl, rfl, fun _ _ => rfl⟩, fun n => ⟨n, Nat.le_refl n, rfl⟩⟩,
    fun ⟨⟨_, h1, _, h2⟩, _⟩ => by
      have := h2 1 (by decide)
      rw [← h1] at this
      exact absurd this (by decide)⟩

/-- B13; R192: not a pair with `C ≥ 16 B`, and no pair at all is none. -/
theorem test_hazard_zeroDivisor :
    Hazard.met .zeroDivisor (starts [] (ready postInit (.call (.bauddiv 100 8)))) 0 ∧
    ¬ Hazard.met .zeroDivisor (starts [] (ready postInit (.call (.init 1048576 1)))) 0 := by
  refine ⟨⟨100, 8, .inl (by decide), by decide, by decide⟩, ?_⟩
  rintro ⟨c, b, h | h, -, h2⟩
  · exact absurd (Option.some.inj h) (by simp [DriverOp.instr])
  · cases h; exact absurd h2 (by decide)

/-- R173; not where RX_ARRIVE is refused (R176). -/
theorem test_hazard_rxOverrun :
    let full : State := { postInit with rxFifo := sixteen, schedule := [.rxArrive 1] }
    Hazard.met .rxOverrun (starts [] full) 0 ∧
    ¬ Hazard.met .rxOverrun (starts [] { full with lcrh := 0x50 }) 0 :=
  ⟨⟨⟨1, rfl⟩, by decide, by decide, by decide⟩, fun h => absurd h.2.2.1 (by decide)⟩

/-- R215 (X4); R218. -/
theorem test_hazard_reconfig_and_drain :
    let s := ready { postInit with ibrd := 13 } (.word 0x102C00000070)
    Hazard.met .reconfigEnabled (starts [] s) 0 ∧
    Hazard.met .notDrained (starts [] { postInit with txFifo := [1] }) 0 :=
  ⟨⟨0x70, by decide, by decide, by decide⟩, rfl, by decide⟩

/-! ## Inputs that meet the hypotheses of the obligations, clause by clause, at the ends of the ranges -/

/-- What the invariants ask of the parameters and the queues, as a test that can be evaluated. -/
def sound (s : State) : Bool :=
  let fits (u : State) : Bool :=
    let w := u.params.layout.width
    decide (u.txFifo.length ≤ u.txCap) && decide (u.rxFifo.length ≤ u.rxCap) &&
      decide (u.ibrd.toNat < 2 ^ w.ibrd) && decide (u.fbrd.toNat < 2 ^ w.fbrd) &&
      decide (u.lcrh.toNat < 2 ^ w.lcrh) && decide (u.cr.toNat < 2 ^ w.cr) &&
      decide (u.ifls.toNat < 2 ^ w.ifls) && decide (u.imsc.toNat < 2 ^ w.imsc) &&
      decide (u.baudLatch.ibrd.toNat < 2 ^ w.ibrd) && decide (u.baudLatch.fbrd.toNat < 2 ^ w.fbrd)
  s.params.layout.wf && decide (1 ≤ s.params.txDepth) && decide (1 ≤ s.params.rxDepth) && fits s &&
    fits s.resetBlock

/-- The test gives the invariants, with what the running operation adds. -/
theorem inv_of_sound {s : State} (h : sound s = true)
    (hw : ∀ c, s.call = some c → c.wf s.params = true ∧ (c.aboutToWrite = true → s.txFifo.length < s.txCap) ∧
      (c = .readByte .ACT → s.rxFifo ≠ [])) : Inv s := by
  simp only [sound, Bool.and_eq_true, decide_eq_true_eq] at h
  obtain ⟨⟨⟨⟨h1, h2⟩, h3⟩, ⟨⟨⟨⟨⟨⟨⟨⟨⟨a1, a2⟩, a3⟩, a4⟩, a5⟩, a6⟩, a7⟩, a8⟩, a9⟩, a10⟩⟩,
    ⟨⟨⟨⟨⟨⟨⟨⟨⟨b1, b2⟩, b3⟩, b4⟩, b5⟩, b6⟩, b7⟩, b8⟩, b9⟩, b10⟩⟩ := h
  exact ⟨h1, h2, h3, ⟨a1, a2, a3, a4, a5, a6, a7, a8, a9, a10⟩, ⟨b1, b2, b3, b4, b5, b6, b7, b8, b9, b10⟩,
    fun c hc => (hw c hc).1, fun c hc => (hw c hc).2.1, fun hc => (hw _ hc).2.2 rfl⟩

/-- The invariants of an idle state. -/
theorem inv_of_idle {s : State} (hc : s.call = none) (h : sound s = true) : Inv s :=
  inv_of_sound h (by simp [hc])

/-- The invariants of a state with a running operation. -/
theorem inv_of_call {s : State} {c : Call} (hc : s.call = some c)
    (h : sound s = true ∧ c.wf s.params = true ∧ (c.aboutToWrite = true → s.txFifo.length < s.txCap) ∧
      (c = .readByte .ACT → s.rxFifo ≠ [])) : Inv s := by
  refine inv_of_sound h.1 fun d hd => ?_
  rw [hc] at hd; cases hd; exact h.2

/-- `postInit` with a running operation. -/
def running (c : Call) : State := { postInit with call := some c }

/-- An access of the owner. -/
def own (write : Bool) (off size : Nat) (data : Word) : Access := ⟨.owner, write, off, size, data⟩

theorem witness_DecodeInvertsEncode :
    D.wf = true ∧ other.wf = true ∧ Instr.wf D (.wrReserved 0xFFC 0xFFFFFFFF) = true ∧
    encode D (.wrReserved 0xFFC 0xFFFFFFFF) = some 0x1FFCFFFFFFFF ∧
    Instr.wf other (.rdReserved 0x07C) = true ∧ encode other (.rdReserved 0x07C) = some 0x007C00000000 := by decide

theorem witness_EncodeInvertsDecode :
    decode D 0x0018FFFFFFFF = .ok .rdFr ∧ decode D 0x1044FFFFFFFF = .ok (.wrIcr 0xFFFFFFFF) ∧
    decode other 0x1044FFFFFFFF = .ok (.wrDr 0xFFFFFFFF) := ⟨rfl, rfl, rfl⟩

theorem witness_StepRunsDecodedWord :
    let s := ready State.reset (.word 0x001800000000)
    let u := ready State.reset (.word 0x100100000000)
    let v := ready { State.reset with params := { Params.default with layout := other } } (.word 0x008000000000)
    (s.schedule = [.master] ∧ s.call = none ∧ s.program = [⟨none, .word 0x001800000000⟩] ∧
      decode s.params.layout 0x001800000000 = .ok .rdFr) ∧
    decode u.params.layout 0x100100000000 = .error .misalignedOffset ∧
    decode v.params.layout 0x008000000000 = .error .outsideWindow :=
  ⟨⟨rfl, rfl, rfl, rfl⟩, rfl, rfl⟩

theorem witness_StepFollowsScheduleAndProgram :
    ({ postInit with schedule := [.rxArrive 0xFF] } : State).schedule = [.rxArrive 0xFF] ∧
    ({ running (.readByte .POLL) with schedule := [.master] } : State).call = some (.readByte .POLL) ∧
    ((ready postInit (.call .readByte)).call = none ∧
      (ready postInit (.call .readByte)).program = [⟨none, .call .readByte⟩]) ∧
    ({ postInit with schedule := [.master] } : State).program = [] ∧
    ((interrupted postInit (.word 0)).schedule = [.context ⟨none, .word 0⟩] ∧
      (interrupted postInit (.word 0)).call = none) ∧ postInit.schedule = [] :=
  ⟨rfl, rfl, ⟨rfl, rfl⟩, rfl, ⟨rfl, rfl⟩, rfl⟩

theorem witness_AccessByAddress :
    let s := ready bound (.access (own true 0xFFC 4 1))
    (s.schedule = [.master] ∧ s.call = none ∧ s.program = [⟨none, .access (own true 0xFFC 4 1)⟩]) ∧
    (⟨.other, false, 0, 4, 0⟩ : Access).master = .other ∧
    ((own false 0xFFC 8 0).size ≠ 4 ∧ (own false 0xFFF 4 0).off % 4 ≠ 0) ∧
    ((own true 0xFFC 4 1).size = 4 ∧ (own true 0xFFC 4 1).off % 4 = 0 ∧
      (own true 0xFFC 4 1).off < s.params.layout.blockSize ∧
      decode s.params.layout (transaction true (BitVec.ofNat 12 0xFFC) 1) = .ok (.wrReserved 0xFFC 1)) ∧
    ((own true 0x1000 4 1).off % 4 = 0 ∧ s.params.layout.blockSize ≤ (own true 0x1000 4 1).off) :=
  ⟨⟨rfl, rfl, rfl⟩, rfl, by decide, ⟨rfl, rfl, by decide, rfl⟩, by decide⟩

/-- A good base with no binding, with one, and with another platform mapping. -/
theorem witness_good_base :
    State.reset.baseOk = true ∧ postInit.baseOk = true ∧
    ({ postInit with base := 0x10009000, blockBase := 0x10009000, bindings := [0x10009000] } : State).baseOk
      = true := by decide

theorem witness_ConfigurationReads : postInit.baseOk = true ∧ Inv postInit :=
  ⟨by decide, inv_of_idle rfl (by decide)⟩
theorem witness_ConfigurationWrites : postInit.baseOk = true := by decide
theorem witness_InterruptStorage : postInit.baseOk = true ∧ Inv postInit :=
  ⟨by decide, inv_of_idle rfl (by decide)⟩
theorem witness_IgnoredWrites : postInit.baseOk = true := by decide

theorem witness_CellsReadBackMasked :
    postInit.baseOk = true ∧
    ∀ p ∈ [(Instr.wrIbrd 0xFFFFFFFF, Instr.rdIbrd, 0xFFFF#32), (.wrFbrd 0xFFFFFFFF, .rdFbrd, 0x3F#32),
        (.wrCr 0xFFFFFFFF, .rdCr, 0xFFFF#32), (.wrIfls 0xFFFFFFFF, .rdIfls, 0x3F#32),
        (.wrImsc 0xFFFFFFFF, .rdImsc, 0x7FF#32)],
      field (·.readData) (Result.andThen (exec p.1 postInit) (exec p.2.1)) = some p.2.2 := by decide

theorem witness_StatusReads : State.reset.baseOk = true ∧ State.reset.imsc = 0#32 := by decide

theorem witness_ReservedAccessesRefused :
    ∀ off ∈ [0x004#12, 0x048#12, 0xFFC#12],
      off.toNat % 4 = 0 ∧ off.toNat < postInit.params.layout.blockSize ∧ off ∉ postInit.params.layout.off.list := by
  decide

theorem witness_DataReadPopsOldest :
    postInit.params.layout.wf = true ∧ postInit.baseOk = true ∧
    ({ postInit with rxFifo := [0xFF] } : State).rxFifo = 0xFF :: [] ∧
    ({ postInit with rxFifo := sixteen } : State).rxff = true ∧ postInit.rxFifo = [] := by decide

theorem witness_DataWritePushesByte :
    postInit.baseOk = true ∧ sixteen.tail.length < 16 ∧ ¬ sixteen.length < 16 ∧
    ({ postInit with txFifo := sixteen } : State).txCap = 16 := by decide

theorem witness_FlagReadIsDerived : postInit.params.layout.wf = true ∧ postInit.baseOk = true := by decide

theorem witness_LineControlWrite :
    let blocked : State := { postInit with rxFifo := [0] }
    let busy : State := { postInit with txShift := some 0 }
    postInit.baseOk = true ∧
    ((0x60#32).getLsbD 4 ≠ blocked.lcrh.getLsbD 4 ∧ 0 < blocked.rxFifo.length) ∧
    ((0x71#32).getLsbD 4 = busy.lcrh.getLsbD 4 ∧ 0x71#32 ≠ busy.lcrh ∧ busy.txShift ≠ none) ∧
    ((0x60#32).getLsbD 4 ≠ postInit.lcrh.getLsbD 4 ∧ postInit.txFifo.length = 0 ∧
      postInit.rxFifo.length = 0 ∧ postInit.txShift = none ∧ 1 ≤ postInit.params.txDepth) := by decide

theorem witness_SameLineControlAccepted :
    let s : State := { postInit with txShift := some 1, txFifo := sixteen }
    s.baseOk = true ∧ (0xFFFFFF70#32).toNat % 2 ^ s.params.layout.width.lcrh = s.lcrh.toNat ∧
    s.baudLatch.ibrd = s.ibrd ∧ s.baudLatch.fbrd = s.fbrd := by decide

theorem witness_OnlyLineControlLoadsLatch :
    field (·.baudLatch) (exec (.wrLcrh 0x70) { postInit with ibrd := 13 }) ≠ some postInit.baudLatch ∧
    field (·.baudLatch) (exec (.init 16 1) { running (.init 16 1 .I2) with ibrd := 1 })
      ≠ some postInit.baudLatch ∧
    field (·.baudLatch) (exec .reset postInit) ≠ some postInit.baudLatch := by decide

theorem witness_CellsChangeOnlyByTheirWrites :
    field (·.ibrd) (exec (.init 16 1) postInit) = some 1 ∧
    field (·.fbrd) (exec (.init 129 8) (running (.init 129 8 .I1))) = some 1 ∧
    field (·.lcrh) (exec (.init 16 1) { running (.init 16 1 .I2) with lcrh := 0x72 }) = some 0x70 ∧
    field (·.cr) (exec (.init 16 1) { running (.init 16 1 .I3) with cr := 0xC301 }) = some 0x301 ∧
    field (·.ifls) (exec (.wrIfls 0) postInit) = some 0 ∧
    field (·.imsc) (exec (.wrImsc 0x10) postInit) = some 0x10 := by decide

theorem witness_BauddivReturnsParts :
    1 % 2 ^ State.reset.params.layout.width.baud ≠ 0 ∧ State.reset.params.tie = .halfUp ∧
    4294967296 % 2 ^ State.reset.params.layout.width.baud = 0 := by decide

theorem witness_BauddivIsRoundedQuotient : 1 ≤ 1 ∧ 1 ≤ 4294967295 := by decide

theorem witness_BauddivLaws :
    16 * 1 ∣ 16 ∧ roundFraction .halfUp (1868800 % 16) 1 < 64 ∧ roundFraction .halfUp (255 % (16 * 8)) 8 = 64 ∧
    roundFraction .halfEven (255 % (16 * 8)) 8 = 64 := by decide

theorem witness_BauddivDropsCarry : 1 ≤ 8 ∧ 127 * (16 * 8) ≤ 128 * (255 % (16 * 8)) := by decide

theorem witness_TieRulesDifferOnlyOnTies :
    (¬ ∃ m, 8 * 233600 = (2 * m + 1) * 115200) ∧ 8 * 1 = (2 * 0 + 1) * 8 ∧ 8 * 3 = (2 * 1 + 1) * 8 :=
  ⟨by rintro ⟨m, h⟩; omega, rfl, rfl⟩

theorem witness_InitPhases :
    0 % 2 ^ D.width.baud = 0 ∧ 1 % 2 ^ D.width.baud ≠ 0 ∧ postInit.params.layout.wf = true ∧
    postInit.baseOk = true ∧ postInit.call = none ∧
    (running (.init 16 1 .I2)).baseOk = true ∧ (running (.init 16 1 .I2)).lcrh.getLsbD 4 = true ∧
    (running (.init 16 1 .I2)).txShift = none ∧
    ({ running (.init 16 1 .I2) with txShift := some 1 } : State).lcrh = lcrhInit D ∧
    ({ bound with call := some (.init 16 1 .I2) } : State).txFifo = [] := by decide

/-- I8: a byte arrives between two writes of INIT. -/
theorem witness_InitFinalState :
    let s : State := { bound with
      program := [⟨none, .call (.init 50000000 115200)⟩]
      schedule := [.master, .txLoad, .master, .modemChange, .master, .rxArrive 0x5A, .master] }
    s.params.layout.wf = true ∧ s.call = none ∧ ∃ t, run (1 + 1 + 1 + 4) s = .next t :=
  ⟨by decide, rfl, _, rfl⟩

/-- P5: the second INIT with a character in the shifter. -/
theorem witness_InitIsIdempotent :
    let d := baudDivisor postInit.params.tie 50000000 115200
    let s : State := { postInit with txShift := some 0x55, txFifo := sixteen }
    s.params.layout.wf = true ∧ 115200 % 2 ^ s.params.layout.width.baud ≠ 0 ∧ (s.setBase none).baseOk = true ∧
    s.call = none ∧ s.ibrd = BitVec.ofNat 32 (d.int % 2 ^ 16) ∧ s.fbrd = BitVec.ofNat 32 (d.frac % 2 ^ 6) ∧
    s.lcrh = lcrhInit D ∧ s.cr = crInit D ∧ s.baudLatch = ⟨s.ibrd, s.fbrd⟩ ∧ s.lineAdmitted = true := by decide

theorem witness_InitRefusedWhileBusy :
    let fresh : State := { bound with txFifo := [0x41], call := some (.init 50000000 115200 .I2) }
    let busy : State := { running (.init 50000000 9600 .I2) with ibrd := 325, txShift := some 0x55 }
    fresh.params.layout.wf = true ∧ 115200 % 2 ^ fresh.params.layout.width.baud ≠ 0 ∧
    (fresh.baseOk = true ∧ fresh.lcrh.getLsbD 4 = false ∧ fresh.txFifo ≠ []) ∧
    (busy.baseOk = true ∧ busy.lcrh.getLsbD 4 = true ∧ busy.txShift ≠ none ∧
      busy.baudLatch ≠ ⟨busy.ibrd, busy.fbrd⟩) := by decide

theorem witness_InitWorkedExample :
    let s : State := { bound with
      program := [⟨none, .call (.init 50000000 115200)⟩], schedule := [.master, .master, .master, .master] }
    atReset s ∧ s.params.layout = Layout.default ∧ s.params.resetState = ResetState.default ∧
    (s.setBase none).baseOk = true ∧ s.params.tie = .halfUp :=
  ⟨rfl, rfl, rfl, rfl, rfl⟩

theorem witness_WriteBytePhases :
    postInit.params.layout.wf = true ∧ postInit.baseOk = true ∧ postInit.call = none ∧
    (running (.writeByte 0xFF .POLL)).baseOk = true ∧ (running (.writeByte 0xFF .ACT)).baseOk = true ∧
    sixteen.tail.length < (running (.writeByte 0xFF .ACT)).txCap ∧
    ¬ sixteen.length < (running (.writeByte 0xFF .ACT)).txCap := by decide

theorem witness_ReadBytePhases :
    postInit.params.layout.wf = true ∧ postInit.baseOk = true ∧ postInit.call = none ∧
    (running (.readByte .POLL)).baseOk = true ∧
    (running (.readByte .ACT)).call = some (.readByte .ACT) := by decide

theorem witness_WriteSequencePhases :
    (postInit.params.layout.wf = true ∧ postInit.baseOk = true ∧ 0 < [1, 2].length) ∧
    ((running (.writeBytes [1, 2] 1 .ACT)).call = some (.writeBytes [1, 2] 1 .ACT) ∧
      ([1, 2] : List Byte)[1]? = some 2 ∧
      (running (.writeBytes [1, 2] 1 .ACT)).txFifo.length < (running (.writeBytes [1, 2] 1 .ACT)).txCap) ∧
    ¬ sixteen.length < (running (.writeBytes [1, 2] 1 .ACT)).txCap ∧
    [1, 2].length ≤ 2 ∧ [0xC3#8, 0xA9#8] = postInit.params.encode ['é'] ∧ postInit.params.encode [] = [] := by
  decide

theorem witness_TextEncodingIsUtf8 : (Char.ofNat 0x7F).toNat < 0x80 ∧ (Char.ofNat 0).toNat < 0x80 := by
  decide

theorem witness_DriverStepsAreRegisterAccesses :
    (∃ t, exec .readByte postInit = .next t) ∧ busAccess .readByte postInit = some .rdFr ∧
    (∃ t, exec (.writeStr []) postInit = .next t) ∧ busAccess (.writeStr []) postInit = none :=
  ⟨⟨_, rfl⟩, rfl, ⟨_, rfl⟩, rfl⟩

theorem witness_RunningCallsNeverRefused :
    (Inv { running (.writeByte 1 .ACT) with txFifo := sixteen.tail } ∧
      ({ running (.writeByte 1 .ACT) with txFifo := sixteen.tail } : State).baseOk = true) ∧
    Inv { running (.readByte .ACT) with rxFifo := [1] } :=
  ⟨⟨inv_of_call rfl (by decide), by decide⟩, inv_of_call rfl (by decide)⟩

theorem witness_InterleavedCallsRefused :
    let s := interrupted (running (.readByte .POLL)) (.call .readByte)
    (s.schedule = [.context ⟨none, .call .readByte⟩] ∧ s.call = some (.readByte .POLL)) ∧
    (running (.writeByte 1 .ACT)).call = some (.writeByte 1 .ACT) ∧
    DriverOp.instr (.writeByte 2) ≠ Call.instr (.writeByte 1 .ACT) ∧
    DriverOp.instr .readByte ≠ Call.instr (.init 16 1 .I0) ∧
    DriverOp.instr (.init 16 1) ≠ Call.instr (.init 16 2 .I0) ∧ 1 % 2 ^ D.width.baud ≠ 0 :=
  ⟨⟨rfl, rfl⟩, by decide⟩

theorem witness_BadBaseRefusesDriver :
    let twice : State := { running (.writeBytes [1] 0 .ACT) with bindings := [0, 0] }
    ({ State.reset with base := 4 } : State).baseOk = false ∧ State.reset.call = none ∧
    (encode State.reset.params.layout .rdFr).isSome = true ∧ twice.baseOk = false ∧
    Call.wf twice.params (.writeBytes [1] 0 .ACT) = true ∧ 1 % 2 ^ D.width.baud ≠ 0 := by decide

/-- T3's first poll, and a raw write of DR. -/
theorem witness_SentBytesConserved :
    let s : State := { running (.writeByte 0x55 .POLL) with txFifo := sixteen, schedule := [.master] }
    let u : State := ready postInit (.word 0x100000000041)
    (∃ t, step s = .next t) ∧ s.turn ≠ .reset ∧ (∃ t, step u = .next t) ∧ issuedBytes u = [0x41] :=
  ⟨⟨_, rfl⟩, by decide, ⟨_, rfl⟩, rfl⟩

theorem witness_SendWritesExactlyItsBytes :
    let s : State := { running (.writeBytes [1, 2] 1 .POLL) with schedule := [.master, .txLoad, .master] }
    (∃ t, run 3 s = .next t ∧ t.call = none) ∧
    ∀ k < 3, ∀ u, run k s = .next u → u.call ≠ none ∧ u.turn ≠ .reset := by
  refine ⟨⟨_, rfl, rfl⟩, ?_⟩
  intro k hk u hu
  obtain rfl | rfl | rfl : k = 0 ∨ k = 1 ∨ k = 2 := by omega
  all_goals (cases hu; exact ⟨nofun, nofun⟩)

theorem witness_ReceivedBytesConserved :
    let arrive : State := { postInit with schedule := [.rxArrive 1] }
    let raw : State := { ready postInit (.word 0x000000000000) with rxFifo := [1, 2] }
    (Inv arrive ∧ (∃ t, step arrive = .next t) ∧ arrive.turn = .rxArrive 1) ∧
    (Inv raw ∧ (∃ t, step raw = .next t) ∧ issued? raw = some .rdDr) :=
  ⟨⟨inv_of_idle rfl (by decide), ⟨_, rfl⟩, rfl⟩, inv_of_idle rfl (by decide), ⟨_, rfl⟩, rfl⟩

theorem witness_WriteByteEndsUnderFairTurns :
    let s : State := { running (.writeByte 0x55 .POLL) with
      txFifo := sixteen, txShift := some 0xEE
      schedule := [.master, .master, .txDone, .txLoad, .rxArrive 1, .master, .master] }
    Inv s ∧ s.baseOk = true ∧ s.lineAdmitted = true ∧ s.cr.getLsbD 0 = true ∧ s.cr.getLsbD 8 = true ∧
    [Turn.txDone, .txLoad, .master, .master].Sublist s.schedule ∧ ∀ x ∈ s.schedule, x.isQuiet = true :=
  ⟨inv_of_call rfl (by decide), by decide⟩

/-- T4 and T11, and the same for the two sequences. -/
theorem witness_PollLoopsMayNeverEnd :
    let full (c : Call) : State := { running c with
      txFifo := sixteen, cr := 0x0300, schedule := [.master, .txLoad, .rxArrive 1] }
    let empty : State := { running (.readByte .POLL) with schedule := [.master, .txLoad, .master] }
    (Inv (full (.writeByte 0x55 .POLL)) ∧ Inv (full (.writeBytes [1, 2] 1 .POLL)) ∧
      Inv (full (.writeStr ['A'] 0 .POLL)) ∧ (full (.writeByte 0x55 .POLL)).baseOk = true ∧
      (full (.writeByte 0x55 .POLL)).txFifo.length = (full (.writeByte 0x55 .POLL)).txCap ∧
      (full (.writeByte 0x55 .POLL)).cr.getLsbD 0 = false ∧
      (full (.writeByte 0x55 .POLL)).rxEnabled = false) ∧
    (Inv empty ∧ empty.baseOk = true ∧ empty.rxFifo = [] ∧ arrivals empty.schedule = [] ∧
      empty.lineAdmitted = true) :=
  ⟨⟨inv_of_call rfl (by decide), inv_of_call rfl (by decide), inv_of_call rfl (by decide), by decide⟩,
    inv_of_call rfl (by decide), by decide⟩

/-- T11 then L5: the byte that arrives is the one returned. -/
theorem witness_ReadByteEndsOnArrival :
    let s : State := { running (.readByte .POLL) with
      schedule := [.master, .rxArrive 0x41, .txDone, .master, .master] }
    Inv s ∧ s.baseOk = true ∧ s.lineAdmitted = true ∧ s.cr.getLsbD 0 = true ∧ s.cr.getLsbD 9 = true ∧
    [Turn.rxArrive 0x41, .master, .master].Sublist s.schedule ∧ (∀ x ∈ s.schedule, x.isQuiet = true) ∧
    field (·.returned) (run 5 s) = some [0x41] :=
  ⟨inv_of_call rfl (by decide), by decide⟩

/-- P4, and a schedule that sends both bytes before the first echo. -/
theorem witness_LoopbackRoundTrip :
    (Inv postInit ∧ postInit.call = none ∧ (postInit.setBase none).baseOk = true ∧
      postInit.lineAdmitted = true ∧ postInit.cr = 0x301 ∧ postInit.txFifo = [] ∧ postInit.txShift = none ∧
      postInit.rxFifo = [] ∧ sixteen ≠ [] ∧ sixteen.length ≤ postInit.rxCap) ∧
    (let s : State := { postInit with
      program := ⟨none, .call (.writeBytes [1, 2])⟩ :: List.replicate 2 ⟨none, .call .readByte⟩
      schedule := List.replicate 4 .master ++ [.txLoad, .txDone, .txLoad, .rxArrive 1, .txDone, .rxArrive 2] ++
        List.replicate 4 .master }
    field (·.wireOut[0]?) (run 7 s) = some (some 1) ∧ field (·.wireOut[1]?) (run 9 s) = some (some 2) ∧
    (∀ x ∈ s.schedule, x.isQuiet = true) ∧ field (·.returned) (run 14 s) = some [1, 2]) :=
  ⟨⟨inv_of_idle rfl (by decide), by decide⟩, by decide⟩

theorem witness_TxLoadMovesOldest :
    let s : State := { postInit with txFifo := [0x48, 0x69] }
    (s.cr.getLsbD 0 = true ∧ s.cr.getLsbD 8 = true ∧ s.txShift = none ∧ 0 < s.txFifo.length ∧
      s.lineAdmitted = true) ∧
    ({ s with baudLatch := ⟨0, 35⟩ } : State).lineAdmitted = false ∧
    ({ s with txShift := some 0 } : State).txShift ≠ none := by decide

theorem witness_TxDoneCompletesCharacter :
    ({ postInit with cr := 0, txShift := some 0xFF } : State).txShift = some 0xFF ∧
    postInit.txShift = none := by decide

theorem witness_RxArriveReceivesOrLoses :
    postInit.cr.getLsbD 0 = true ∧ postInit.cr.getLsbD 9 = true ∧ postInit.lineAdmitted = true ∧
    sixteen.tail.length < 16 ∧ ¬ sixteen.length < 16 ∧
    ({ postInit with lcrh := 0x50 } : State).lineAdmitted = false ∧ State.reset.cr.getLsbD 0 = false := by
  decide

/-- One byte about to be loaded, then in the shifter, then on the wire. -/
def draining : Nat → State :=
  starts [{ postInit with txFifo := [0x48], schedule := [.txLoad] },
      { postInit with txShift := some 0x48, schedule := [.txDone] }]
    { postInit with wireOut := [0x48], schedule := [.modemChange] }

theorem draining_execution : Execution draining := by
  rintro (_ | _ | n)
  · exact ⟨{ postInit with txShift := some 0x48 }, rfl, rfl⟩
  · exact ⟨{ postInit with wireOut := [0x48] }, rfl, rfl⟩
  · exact ⟨{ postInit with wireOut := [0x48] }, rfl, rfl⟩

/-- An execution that sends one byte is weakly fair; and a list of turns. -/
theorem witness_FairDrainReachesTheWire :
    (Execution draining ∧ Fair draining ∧ (draining 0).txFifo = [0x48] ∧
      ∀ n, crUarten (draining n).params.layout (draining n).cr = true ∧
        crTxe (draining n).params.layout (draining n).cr = true ∧
        (draining n).lineAdmitted = true ∧ (draining n).turn ≠ .reset ∧ writesDr (draining n) = false) ∧
    (let s : State := { postInit with
      txFifo := [0x48, 0x69]
      schedule := [.txDone, .txLoad, .rxArrive 1, .txDone, .txLoad, .modemChange, .txDone, .txLoad] }
    s.lineAdmitted = true ∧ s.cr.getLsbD 0 = true ∧ s.cr.getLsbD 8 = true ∧
    (∀ x ∈ s.schedule, x.isHardware = true) ∧
    (List.replicate (s.txFifo.length + 1) [Turn.txDone, Turn.txLoad]).flatten.Sublist s.schedule) := by
  have tail (n : Nat) : draining (n + 2) = { postInit with wireOut := [0x48], schedule := [.modemChange] } := rfl
  refine ⟨⟨draining_execution, ⟨?_, ?_⟩, rfl, ?_⟩, by decide⟩
  · intro n h; exact absurd (h (n + 2) (by omega)) (by rw [tail]; decide)
  · intro n h; exact absurd (h (n + 2) (by omega)) (by rw [tail]; decide)
  · rintro (_ | _ | n)
    · decide
    · decide
    · rw [tail]; decide

theorem witness_AdmittedConfigurations :
    postInit.params.layout = Layout.default ∧ postInit.params.layout.wf = true ∧
    ∀ k, (0x9E#32).getLsbD k = true → k ∈ [D.lcrh.pen, D.lcrh.eps, D.lcrh.sps, D.lcrh.stp2, D.lcrh.fen] := by
  refine ⟨rfl, by decide, fun k h => ?_⟩
  have hk : k < 32 := by
    by_contra hc
    rw [BitVec.getLsbD_of_ge _ _ (by omega)] at h
    cases h
  revert h
  have all : ∀ j : Fin 32, (0x9E#32).getLsbD j.val = true →
      j.val ∈ [D.lcrh.pen, D.lcrh.eps, D.lcrh.sps, D.lcrh.stp2, D.lcrh.fen] := by decide
  exact all ⟨k, hk⟩

theorem witness_ResetRestoresBlock :
    postInit.params.layout = Layout.default ∧ postInit.params.resetState = ResetState.default ∧
    postInit.baseOk = true ∧
    ∃ t u v, exec .reset postInit = .next t ∧ exec .rdFr t = .next u ∧ exec .rdDr t = .next v :=
  ⟨rfl, rfl, rfl, _, _, _, rfl, rfl, rfl⟩

theorem witness_StepKeepsInvariant :
    let s : State := { running (.writeByte 1 .POLL) with schedule := [.master] }
    Inv s ∧ ∃ t, step s = .next t :=
  ⟨inv_of_call rfl (by decide), _, rfl⟩

theorem witness_FlagsAreConsistent :
    Inv postInit ∧ postInit.txfe = true ∧ postInit.txShift = none ∧
    Inv { postInit with txFifo := sixteen } ∧ ({ postInit with txFifo := sixteen } : State).txff = true :=
  ⟨inv_of_idle rfl (by decide), by decide, rfl, inv_of_idle rfl (by decide), by decide⟩

theorem witness_DrawsShowOnlyInReads : Inv { running (.readByte .ACT) with rxFifo := [1] } :=
  inv_of_call rfl (by decide)

theorem witness_ParametersAreFixed :
    field (·.bindings) (exec (.bind 4) State.reset) ≠ some State.reset.bindings ∧
    field (·.wireOut) (exec .txDone { postInit with txShift := some 1 }) ≠ some [] ∧
    field (·.wireOut) (exec .reset { postInit with wireOut := [1] }) ≠ some [1] := by decide

theorem witness_HardwareStepsFrame :
    (∃ t, exec .txLoad { postInit with txFifo := [1, 2] } = .next t) ∧
    (∃ t, exec .txDone { postInit with txShift := some 1 } = .next t) ∧
    (∃ t, exec (.rxArrive 1) postInit = .next t) ∧ ∃ t, exec .modemChange postInit = .next t :=
  ⟨⟨_, rfl⟩, ⟨_, rfl⟩, ⟨_, rfl⟩, _, rfl⟩

end Sys2Proof.Tests
end

section
/-! The base case of the invariants (spec/10_state.md R35, R38): a block at reset is idle and holds RESET_STATE, so
its invariants are those of its parameters and its cells. -/

namespace Sys2Proof.Machine

/-- RESET abandons the running operation (R210). -/
theorem call_eq_none_of_atReset {s : State} (h : atReset s) : s.call = none := by
  rw [← h, State.resetBlock_call]

/-- At reset the clauses of the invariants about the running operation are void, and RESET_STATE fits because the
cells do. -/
theorem inv_of_atReset {s : State} (h : atReset s) (hL : s.params.layout.wf = true)
    (htx : 1 ≤ s.params.txDepth) (hrx : 1 ≤ s.params.rxDepth) (hfits : Fits s) : Inv s where
  layout_wf := hL
  txDepth_pos := htx
  rxDepth_pos := hrx
  fits := hfits
  reset_fits := by rwa [show s.resetBlock = s from h]
  call_wf := by simp [call_eq_none_of_atReset h]
  write_room := by simp [call_eq_none_of_atReset h]
  read_byte := by simp [call_eq_none_of_atReset h]

theorem atReset_reset : atReset State.reset := rfl

/-- The queues are empty, and each value of R38 is below two to its width (R15 to R20). -/
theorem fits_reset : Fits State.reset where
  txFifo_le := Nat.zero_le _
  rxFifo_le := Nat.zero_le _
  ibrd_lt := by decide
  fbrd_lt := by decide
  lcrh_lt := by decide
  cr_lt := by decide
  ifls_lt := by decide
  imsc_lt := by decide
  latchIbrd_lt := by decide
  latchFbrd_lt := by decide

theorem inv_reset : Inv State.reset :=
  inv_of_atReset atReset_reset Layout.default_wf (by decide) (by decide) fits_reset

/-- Settles O54: the values and the parameters are the fields of `State.reset`, and the reset state is idle and
fits. -/
theorem invariantHoldsAtReset : Obligations.InvariantHoldsAtReset := by
  unfold Obligations.InvariantHoldsAtReset
  exact ⟨rfl, rfl, rfl, rfl, rfl, rfl, rfl, rfl, rfl, rfl, rfl, rfl, rfl, atReset_reset, inv_reset⟩

end Sys2Proof.Machine
end

section
/-! What an operation does when it answers (spec/40_register_access.md to spec/44_line_side.md), said once: every proof
about the whole machine is a case split over it. -/

namespace Sys2Proof.Machine

/-- The state that a write of LCR_H leaves when it is not refused (R99). -/
def State.loadLcrh (s : State) (v : Word) : State :=
  { s with lcrh := lcrhOperand s.params.layout v, baudLatch := s.cellDivisor }

/-- What operation `i` can make of the state `s` when it answers, with the guard it passed. An effect that several
operations have is stated for every `i`, and a driver operation's phase is told where it writes a cell. -/
inductive Effect (s : State) : Instr → State → Prop where
  /-- Writes of FR, RIS, MIS and ICR, MODEM_CHANGE, a hardware step that is not enabled, a lost arrival. -/
  | keep {i : Instr} : Effect s i s
  /-- A read other than of DR, which uses `k` free values. -/
  | read {i : Instr} (v : Word) (k : Nat) : Effect s i ((s.returning v).spend k)
  | rdDr : Effect s .rdDr s.readDr
  | wrDr (v : Word) (room : s.txFifo.length < s.txCap) :
      Effect s (.wrDr v) { s with txFifo := s.txFifo ++ [dataOperand v] }
  | wrIbrd (v : Word) : Effect s (.wrIbrd v) (s.writeIbrd v)
  | wrFbrd (v : Word) : Effect s (.wrFbrd v) (s.writeFbrd v)
  | wrLcrh (v : Word) (unblocked : s.fenChangeBlocked (lcrhOperand s.params.layout v) = false) :
      Effect s (.wrLcrh v) (s.loadLcrh v)
  | wrCr (v : Word) : Effect s (.wrCr v) (s.writeCr v)
  | wrIfls (v : Word) : Effect s (.wrIfls v) (s.writeIfls v)
  | wrImsc (v : Word) : Effect s (.wrImsc v) (s.writeImsc v)
  | bauddiv (c b : Nat) : Effect s (.bauddiv c b) { s with divisor := s.params.divisor c b }
  | bind (base : Nat) : Effect s (.bind base) { s with bindings := base :: s.bindings }
  /-- INIT records its divisor when it starts, and only then. -/
  | initI0 (c b : Nat) (d : Divisor) (rate : s.params.baud b ≠ 0)
      (phase : s.call = none ∨ s.call = some (.init c b .I0)) :
      Effect s (.init c b) (({ s with divisor := d }.writeIbrd (s.params.divisor c b).intOperand).setCall
        (some (.init c b .I1)))
  | initI1 (c b : Nat) (rate : s.params.baud b ≠ 0) (phase : s.call = some (.init c b .I1)) :
      Effect s (.init c b) ((s.writeFbrd (s.params.divisor c b).fracOperand).setCall (some (.init c b .I2)))
  | initI2 (c b : Nat) (rate : s.params.baud b ≠ 0) (phase : s.call = some (.init c b .I2))
      (unblocked : s.fenChangeBlocked (lcrhOperand s.params.layout (lcrhInit s.params.layout)) = false) :
      Effect s (.init c b) ((s.loadLcrh (lcrhInit s.params.layout)).setCall (some (.init c b .I3)))
  | initI3 (c b : Nat) (phase : s.call = some (.init c b .I3)) :
      Effect s (.init c b) ((s.writeCr (crInit s.params.layout)).setCall none)
  /-- A poll that found a flag set: the next access polls again. -/
  | pollAgain {i : Instr} (c : Call) (wf : c.wf s.params = true) (polls : c.polls = true) :
      Effect s i (s.readFr.setCall (some c))
  /-- A poll that found TXFF clear: the next access writes DR. -/
  | pollRoom {i : Instr} (c : Call) (wf : c.wf s.params = true) (writes : c.aboutToWrite = true)
      (room : s.txff = false) : Effect s i (s.readFr.setCall (some c))
  /-- A poll that found RXFE clear: the next access reads DR. -/
  | pollByte (byte : s.rxfe = false) : Effect s .readByte (s.readFr.setCall (some (.readByte .ACT)))
  /-- A byte written to DR by a send, which ends or goes on to poll for its next byte. -/
  | send {i : Instr} (b : Byte) (after : Option Call) (room : s.txFifo.length < s.txCap)
      (next : ∀ c, after = some c → c.wf s.params = true ∧ c.polls = true) :
      Effect s i ({ s with txFifo := s.txFifo ++ [b] }.setCall after)
  /-- A sequence past its last byte ends without an access. -/
  | sendEnd {i : Instr} : Effect s i (s.setCall none)
  | receive : Effect s .readByte ({ s.readDr with returned := s.returned ++ [s.dataReg.data] }.setCall none)
  | txLoad (b : Byte) (rest : List Byte) (queued : s.txFifo = b :: rest) :
      Effect s .txLoad { s with txShift := some b, txFifo := rest }
  | txDone (b : Byte) (shifting : s.txShift = some b) :
      Effect s .txDone { s with wireOut := s.wireOut ++ [b], txShift := none }
  | rxArrive (d : Byte) (room : s.rxFifo.length < s.rxCap) :
      Effect s (.rxArrive d) { s with rxFifo := s.rxFifo ++ [d] }
  | reset : Effect s .reset s.resetBlock

/-- A read of a cell uses no free value. -/
theorem Effect.readCell {s : State} {i : Instr} (v : Word) : Effect s i (s.returning v) := .read v 0

/-! ## Each operation has one of these effects -/

/-- An access that always answers on a good BASE. -/
theorem eq_of_withBase_next {s t u : State} (h : s.withBase (.next u) = .next t) : t = u :=
  next_eq_next.mp (State.withBase_eq_next.mp h).2

theorem effect_of_initPhase {c b : Nat} {ph : InitPhase} {s t : State} (rate : s.params.baud b ≠ 0)
    (hc : s.call = some (.init c b ph)) (h : initPhase c b ph s = .next t) : Effect s (.init c b) t := by
  have h := (initPhase_eq_next.mp h).2
  cases ph with
  | I0 => subst h; exact .initI0 c b _ rate (.inr hc)
  | I1 => subst h; exact .initI1 c b rate hc
  | I2 =>
    obtain ⟨u, hu, rfl⟩ := h
    obtain ⟨unblocked, -, rfl⟩ := State.writeLcrh_eq_next.mp hu
    exact .initI2 c b rate hc unblocked
  | I3 => subst h; exact .initI3 c b hc

theorem effect_of_sendPhase {at_ : XferPhase → Call} {after : Option Call} {b : Byte} {ph : XferPhase}
    {i : Instr} {s t : State} (hwf : ∀ ph, (at_ ph).wf s.params = true) (hpoll : (at_ .POLL).polls = true)
    (hact : (at_ .ACT).aboutToWrite = true)
    (hafter : ∀ c, after = some c → c.wf s.params = true ∧ c.polls = true)
    (h : sendPhase at_ after b ph s = .next t) : Effect s i t := by
  have h := (sendPhase_eq_next.mp h).2
  cases ph with
  | POLL =>
    cases hf : s.txff with
    | true => simp only [hf, if_true] at h; subst h; exact .pollAgain _ (hwf _) hpoll
    | false => simp only [hf, Bool.false_eq_true, if_false] at h; subst h; exact .pollRoom _ (hwf _) hact hf
  | ACT => obtain ⟨room, rfl⟩ := h; exact .send b after room hafter

theorem effect_of_receivePhase {ph : XferPhase} {s t : State} (h : receivePhase ph s = .next t) :
    Effect s .readByte t := by
  have h := (receivePhase_eq_next.mp h).2
  cases ph with
  | POLL =>
    cases hf : s.rxfe with
    | true => simp only [hf, if_true] at h; subst h; exact .pollAgain _ rfl rfl
    | false => simp only [hf, Bool.false_eq_true, if_false] at h; subst h; exact .pollByte hf
  | ACT => subst h; exact .receive

/-- A sequence operation whose phases are well-formed at every index inside the sequence. -/
theorem effect_of_sendSequence {bytes : List Byte} {at_ : Nat → XferPhase → Call} {n : Nat} {ph : XferPhase}
    {i : Instr} {s t : State} (hwf : ∀ n ph, n < bytes.length → (at_ n ph).wf s.params = true)
    (hpoll : ∀ n, (at_ n .POLL).polls = true) (hact : ∀ n, (at_ n .ACT).aboutToWrite = true)
    (h : sendSequence bytes at_ n ph s = .next t) : Effect s i t := by
  rcases sendSequence_eq_next.mp h with ⟨-, rfl⟩ | ⟨b, hb, hs⟩
  · exact .sendEnd
  · have hn : n < bytes.length := (List.getElem?_eq_some_iff.mp hb).1
    refine effect_of_sendPhase (fun ph => hwf n ph hn) (hpoll n) (hact n) (fun c hc => ?_) hs
    split at hc
    · cases hc; exact ⟨hwf _ _ ‹_›, hpoll _⟩
    · cases hc

/-- Every operation that answers has one of the effects above. -/
theorem effect_of_exec {i : Instr} {s t : State} (h : exec i s = .next t) : Effect s i t := by
  cases i with
  | rdDr => obtain rfl := eq_of_withBase_next h; exact .rdDr
  | rdFr => obtain rfl := eq_of_withBase_next h; exact .read _ 4
  | rdIbrd | rdFbrd | rdLcrh | rdCr | rdIfls | rdImsc => obtain rfl := eq_of_withBase_next h; exact .readCell _
  | rdRis | rdMis | rdIcr => obtain rfl := eq_of_withBase_next h; exact .read _ 1
  | wrFr | wrRis | wrMis | wrIcr => obtain rfl := eq_of_withBase_next h; exact .keep
  | wrIbrd v => obtain rfl := eq_of_withBase_next h; exact .wrIbrd v
  | wrFbrd v => obtain rfl := eq_of_withBase_next h; exact .wrFbrd v
  | wrCr v => obtain rfl := eq_of_withBase_next h; exact .wrCr v
  | wrIfls v => obtain rfl := eq_of_withBase_next h; exact .wrIfls v
  | wrImsc v => obtain rfl := eq_of_withBase_next h; exact .wrImsc v
  | wrDr v =>
    obtain ⟨-, h⟩ := State.withBase_eq_next.mp h
    obtain ⟨room, rfl⟩ := State.writeDr_eq_next.mp h
    exact .wrDr v room
  | wrLcrh v =>
    obtain ⟨-, h⟩ := State.withBase_eq_next.mp h
    obtain ⟨unblocked, -, rfl⟩ := State.writeLcrh_eq_next.mp h
    exact .wrLcrh v unblocked
  | rdReserved | wrReserved => cases h
  | bauddiv c b =>
    simp only [exec, execBauddiv] at h
    split at h
    · cases h
    · cases h; exact .bauddiv c b
  | bind base => obtain rfl := next_eq_next.mp h; exact .bind base
  | init c b =>
    obtain ⟨rate, ⟨hc, h⟩ | ⟨ph, hc, h⟩⟩ := execInit_eq_next.mp h
    · obtain ⟨-, rfl⟩ := initPhase_eq_next.mp h
      exact .initI0 c b _ rate (.inl hc)
    · exact effect_of_initPhase rate hc h
  | writeByte b =>
    obtain ⟨ph, -, h⟩ := execWriteByte_eq_next.mp h
    exact effect_of_sendPhase (fun _ => rfl) rfl rfl (by simp) h
  | readByte =>
    obtain ⟨ph, -, h⟩ := execReadByte_eq_next.mp h
    exact effect_of_receivePhase h
  | writeBytes bytes =>
    obtain ⟨n, ph, -, h⟩ := execWriteBytes_eq_next.mp h
    exact effect_of_sendSequence (fun _ _ => decide_eq_true) (fun _ => rfl) (fun _ => rfl) h
  | writeStr text =>
    obtain ⟨n, ph, -, h⟩ := execWriteStr_eq_next.mp h
    exact effect_of_sendSequence (fun _ _ => decide_eq_true) (fun _ => rfl) (fun _ => rfl) h
  | txLoad =>
    rcases execTxLoad_eq_next.mp h with ⟨-, rfl⟩ | ⟨-, -, b, rest, queued, rfl⟩
    · exact .keep
    · exact .txLoad b rest queued
  | txDone =>
    rcases execTxDone_eq_next.mp h with ⟨-, rfl⟩ | ⟨b, shifting, rfl⟩
    · exact .keep
    · exact .txDone b shifting
  | rxArrive d =>
    rcases execRxArrive_eq_next.mp h with ⟨-, rfl⟩ | ⟨-, -, -, rfl⟩ | ⟨-, -, room, rfl⟩
    · exact .keep
    · exact .keep
    · exact .rxArrive d room
  | modemChange => obtain rfl := next_eq_next.mp h; exact .keep
  | reset => obtain rfl := next_eq_next.mp h; exact .reset

end Sys2Proof.Machine
end

section
/-! The frames of the whole machine: what changes the latch, the cells, the parameters, the bindings and the wire. -/

namespace Sys2Proof.Machine

/-- Settles O21: among the effects, only those of WR_LCRH, of phase I2 and of RESET touch the latch. -/
theorem onlyLineControlLoadsLatch : Obligations.OnlyLineControlLoadsLatch := by
  unfold Obligations.OnlyLineControlLoadsLatch
  intro i s t h hne
  cases effect_of_exec h with
  | reset => exact .inl rfl
  | wrLcrh v => exact .inr ⟨.inl ⟨v, rfl⟩, rfl⟩
  | initI2 c b _ phase => exact .inr ⟨.inr ⟨c, b, rfl, phase⟩, rfl⟩
  | _ => exact absurd rfl hne

/-- Settles O22: each cell is touched by the effect of its own write and of its phase of INIT alone. -/
theorem cellsChangeOnlyByTheirWrites : Obligations.CellsChangeOnlyByTheirWrites := by
  unfold Obligations.CellsChangeOnlyByTheirWrites
  intro i s t h hi
  cases effect_of_exec h with
  | reset => exact absurd rfl hi
  | wrIbrd v =>
    exact ⟨fun _ => .inl ⟨v, rfl⟩, absurd rfl, absurd rfl, absurd rfl, absurd rfl, absurd rfl⟩
  | wrFbrd v =>
    exact ⟨absurd rfl, fun _ => .inl ⟨v, rfl⟩, absurd rfl, absurd rfl, absurd rfl, absurd rfl⟩
  | wrLcrh v =>
    exact ⟨absurd rfl, absurd rfl, fun _ => .inl ⟨v, rfl⟩, absurd rfl, absurd rfl, absurd rfl⟩
  | wrCr v =>
    exact ⟨absurd rfl, absurd rfl, absurd rfl, fun _ => .inl ⟨v, rfl⟩, absurd rfl, absurd rfl⟩
  | wrIfls v =>
    exact ⟨absurd rfl, absurd rfl, absurd rfl, absurd rfl, fun _ => ⟨v, rfl⟩, absurd rfl⟩
  | wrImsc v =>
    exact ⟨absurd rfl, absurd rfl, absurd rfl, absurd rfl, absurd rfl, fun _ => ⟨v, rfl⟩⟩
  | initI0 c b _ _ phase =>
    exact ⟨fun _ => .inr ⟨c, b, rfl, phase⟩, absurd rfl, absurd rfl, absurd rfl, absurd rfl, absurd rfl⟩
  | initI1 c b _ phase =>
    exact ⟨absurd rfl, fun _ => .inr ⟨c, b, rfl, phase⟩, absurd rfl, absurd rfl, absurd rfl, absurd rfl⟩
  | initI2 c b _ phase =>
    exact ⟨absurd rfl, absurd rfl, fun _ => .inr ⟨c, b, rfl, phase⟩, absurd rfl, absurd rfl, absurd rfl⟩
  | initI3 c b phase =>
    exact ⟨absurd rfl, absurd rfl, absurd rfl, fun _ => .inr ⟨c, b, rfl, phase⟩, absurd rfl, absurd rfl⟩
  | _ => exact ⟨absurd rfl, absurd rfl, absurd rfl, absurd rfl, absurd rfl, absurd rfl⟩

/-- No operation changes the parameters (R4, R37). -/
theorem Effect.params_eq {s t : State} {i : Instr} (e : Effect s i t) : t.params = s.params := by
  cases e <;> rfl

/-- Settles O59: no effect touches the parameters, the mapping or BASE; BIND alone the bindings; TX_DONE appends to
the wire and RESET empties it. -/
theorem parametersAreFixed : Obligations.ParametersAreFixed := by
  unfold Obligations.ParametersAreFixed
  intro i s t h
  have e := effect_of_exec h
  refine ⟨e.params_eq, ?_⟩
  cases e with
  | bind base => exact ⟨rfl, rfl, fun _ => ⟨base, rfl⟩, fun _ => List.prefix_rfl, absurd rfl⟩
  | txDone b => exact ⟨rfl, rfl, absurd rfl, fun _ => List.prefix_append _ _, fun _ => .inl rfl⟩
  | reset => exact ⟨rfl, rfl, absurd rfl, absurd rfl, fun _ => .inr rfl⟩
  | _ => exact ⟨rfl, rfl, absurd rfl, fun _ => List.prefix_rfl, absurd rfl⟩

end Sys2Proof.Machine
end

section
/-! Every step keeps the invariants (spec/10_state.md R35, spec/43_transfer.md R155, R156). The parameters never change,
every effect keeps what R35 says of the queues and the cells, and no agent takes from a running operation the room or
the byte its poll found: hardware only drains the transmit FIFO and only fills the receive FIFO, and nothing else
accesses DR while an operation runs (R52, R199). -/

namespace Sys2Proof.Machine

/-! ## The queues, the cells and the latch (R35) -/

/-- A capacity is at least 1 (R28). -/
theorem State.txCap_pos {s : State} (h : 1 ≤ s.params.txDepth) : 1 ≤ s.txCap := by
  unfold State.txCap; split
  · exact h
  · exact Nat.le_refl 1

theorem State.rxCap_pos {s : State} (h : 1 ≤ s.params.rxDepth) : 1 ≤ s.rxCap := by
  unfold State.rxCap; split
  · exact h
  · exact Nat.le_refl 1

/-- A write of LCR_H that answers keeps both capacities, or finds both queues empty (R99, R28). -/
theorem State.loadLcrh_caps {s : State} {v : Word}
    (h : s.fenChangeBlocked (lcrhOperand s.params.layout v) = false) :
    ((s.loadLcrh v).txCap = s.txCap ∧ (s.loadLcrh v).rxCap = s.rxCap) ∨ (s.txFifo = [] ∧ s.rxFifo = []) := by
  refine (State.fenChangeBlocked_eq_false h).imp_left fun hfen => ?_
  simp only [State.loadLcrh, State.txCap, State.rxCap, hfen, and_self]

/-- A write of LCR_H that answers keeps R35: the cell takes its effective bits, the latch the two cells. -/
theorem Fits.loadLcrh {s : State} {v : Word} (h : Fits s)
    (unblocked : s.fenChangeBlocked (lcrhOperand s.params.layout v) = false) : Fits (s.loadLcrh v) := by
  have cells : (s.loadLcrh v).txFifo.length ≤ (s.loadLcrh v).txCap ∧
      (s.loadLcrh v).rxFifo.length ≤ (s.loadLcrh v).rxCap := by
    show s.txFifo.length ≤ _ ∧ s.rxFifo.length ≤ _
    rcases State.loadLcrh_caps unblocked with ⟨htx, hrx⟩ | ⟨htx, hrx⟩
    · rw [htx, hrx]; exact ⟨h.txFifo_le, h.rxFifo_le⟩
    · rw [htx, hrx]; exact ⟨Nat.zero_le _, Nat.zero_le _⟩
  exact { h with
    txFifo_le := cells.1
    rxFifo_le := cells.2
    lcrh_lt := trunc_lt _ _
    latchIbrd_lt := h.ibrd_lt
    latchFbrd_lt := h.fbrd_lt }

/-- A byte appended to the transmit FIFO where there is room keeps R35. -/
theorem Fits.push {s : State} (h : Fits s) (b : Byte) (room : s.txFifo.length < s.txCap) :
    Fits { s with txFifo := s.txFifo ++ [b] } :=
  { h with txFifo_le := List.length_append ▸ room }

theorem Fits.readDr {s : State} (h : Fits s) : Fits s.readDr :=
  { h with rxFifo_le := Nat.le_trans (List.length_tail ▸ Nat.sub_le _ _) h.rxFifo_le }

/-- Every effect keeps what R35 says of the queues, the cells and the latch. -/
theorem Effect.fits {s t : State} {i : Instr} (e : Effect s i t) (h : Fits s) (hz : Fits s.resetBlock) :
    Fits t := by
  cases e with
  | rdDr => exact h.readDr
  | receive => exact { h.readDr with }
  | wrDr v room => exact h.push _ room
  | send b after room => exact { h.push b room with }
  | wrIbrd v => exact { h with ibrd_lt := trunc_lt _ _ }
  | initI0 => exact { h with ibrd_lt := trunc_lt _ _ }
  | wrFbrd v => exact { h with fbrd_lt := trunc_lt _ _ }
  | initI1 => exact { h with fbrd_lt := trunc_lt _ _ }
  | wrLcrh v unblocked => exact h.loadLcrh unblocked
  | initI2 c b _ _ unblocked => exact { h.loadLcrh unblocked with }
  | wrCr v => exact { h with cr_lt := trunc_lt _ _ }
  | initI3 => exact { h with cr_lt := trunc_lt _ _ }
  | wrIfls v => exact { h with ifls_lt := trunc_lt _ _ }
  | wrImsc v => exact { h with imsc_lt := trunc_lt _ _ }
  | txLoad b rest queued =>
    have := h.txFifo_le
    rw [queued] at this
    exact { h with txFifo_le := Nat.le_of_succ_le this }
  | rxArrive d room => exact { h with rxFifo_le := List.length_append ▸ room }
  | reset => exact hz
  | keep | read | bauddiv | bind | pollAgain | pollRoom | pollByte | sendEnd | txDone => exact { h with }

/-- Whether RESET_STATE fits is a fact about the parameters (R38). -/
theorem fits_resetBlock_of_params {s t : State} (hp : t.params = s.params) (h : Fits s.resetBlock) :
    Fits t.resetBlock := by
  cases s; cases t; cases hp; exact { h with }

/-! ## The running operation (R155, R156) -/

/-- What the invariants say of a running operation: its operands are those of one, it finds room for the write of DR
it is about to make and a byte for the read. -/
structure Call.Ready (c : Call) (s : State) : Prop where
  wf : c.wf s.params = true
  room : c.aboutToWrite = true → s.txFifo.length < s.txCap
  byte : c = .readByte .ACT → s.rxFifo ≠ []

theorem Inv.ready {s : State} (h : Inv s) : ∀ c, s.call = some c → c.Ready s := fun c hc =>
  ⟨h.call_wf c hc, h.write_room c hc, fun hr => h.read_byte (hr ▸ hc)⟩

/-- An operation that neither writes nor reads DR next needs nothing of the queues. -/
theorem Call.ready_of_no_data {c : Call} {s : State} (wf : c.wf s.params = true) (hw : c.aboutToWrite = false)
    (hr : c ≠ .readByte .ACT) : c.Ready s :=
  ⟨wf, by simp [hw], fun h => absurd h hr⟩

theorem Call.aboutToWrite_of_polls {c : Call} (h : c.polls = true) : c.aboutToWrite = false := by
  unfold Call.polls at h
  split at h
  iterate 4 rfl
  all_goals cases h

theorem Call.ready_of_polls {c : Call} {s : State} (wf : c.wf s.params = true) (hp : c.polls = true) :
    c.Ready s :=
  ready_of_no_data wf (aboutToWrite_of_polls hp) (by rintro rfl; cases hp)

theorem Call.ready_of_init {c b : Nat} {ph : InitPhase} {s : State} (rate : s.params.baud b ≠ 0) :
    (Call.init c b ph).Ready s :=
  ready_of_no_data (bne_iff_ne.mpr rate) rfl Call.noConfusion

/-- A write of LCR_H leaves a running operation the room and the byte it found: where it changes a capacity, the
queues are empty. -/
theorem Call.Ready.loadLcrh {c : Call} {s : State} {v : Word} (h : c.Ready s) (hd : 1 ≤ s.params.txDepth)
    (unblocked : s.fenChangeBlocked (lcrhOperand s.params.layout v) = false) : c.Ready (s.loadLcrh v) := by
  refine { h with room := fun hw => ?_ }
  show s.txFifo.length < _
  rcases State.loadLcrh_caps unblocked with ⟨htx, -⟩ | ⟨htx, -⟩
  · rw [htx]; exact h.room hw
  · rw [htx]; exact State.txCap_pos (s := s.loadLcrh v) hd

/-- The register operations that take room from the transmit FIFO or a byte from the receive FIFO. -/
def accessesData : Instr → Bool
  | .rdDr | .wrDr _ => true
  | _ => false

/-- Every effect leaves the running operation, be it the old one or its next phase, what it relies on; an access of
DR by address does so when no operation runs. -/
theorem Effect.ready {s t : State} {i : Instr} (e : Effect s i t) (h : Inv s)
    (hi : accessesData i = true → s.call = none) : ∀ c, t.call = some c → c.Ready t := by
  have old := h.ready
  cases e with
  | rdDr | wrDr => exact fun c hc => nomatch (hi rfl).symm.trans hc
  | wrLcrh v unblocked => exact fun c hc => (old c hc).loadLcrh h.txDepth_pos unblocked
  | initI0 _ _ _ rate | initI1 _ _ rate | initI2 _ _ rate => rintro _ ⟨⟩; exact Call.ready_of_init rate
  | pollAgain c wf polls => rintro _ ⟨⟩; exact Call.ready_of_polls wf polls
  | pollRoom c wf writes room =>
    rintro _ ⟨⟩
    have hne : s.txFifo.length ≠ s.txCap := beq_eq_false_iff_ne.mp room
    exact ⟨wf, fun _ => Nat.lt_of_le_of_ne h.fits.txFifo_le hne, fun hr => by subst hr; cases writes⟩
  | pollByte byte =>
    rintro _ ⟨⟩
    exact ⟨rfl, Bool.noConfusion, fun _ hnil => by simp [State.rxfe, show s.rxFifo = [] from hnil] at byte⟩
  | send b after _ next => exact fun c hc => Call.ready_of_polls (next c hc).1 (next c hc).2
  | initI3 | sendEnd | receive | reset => rintro _ ⟨⟩
  | txLoad b rest queued =>
    refine fun c hc => { old c hc with room := fun hw => ?_ }
    have := (old c hc).room hw
    rw [queued] at this
    exact Nat.lt_of_succ_lt this
  | rxArrive d => exact fun c hc => { old c hc with byte := fun _ => List.append_ne_nil_of_right_ne_nil _ (by simp) }
  | keep | read | wrIbrd | wrFbrd | wrCr | wrIfls | wrImsc | bauddiv | bind | txDone =>
    exact fun c hc => { old c hc with }

/-! ## The invariants -/

theorem Effect.inv {s t : State} {i : Instr} (e : Effect s i t) (h : Inv s)
    (hi : accessesData i = true → s.call = none) : Inv t where
  layout_wf := e.params_eq ▸ h.layout_wf
  txDepth_pos := e.params_eq ▸ h.txDepth_pos
  rxDepth_pos := e.params_eq ▸ h.rxDepth_pos
  fits := e.fits h.fits h.reset_fits
  reset_fits := fits_resetBlock_of_params e.params_eq h.reset_fits
  call_wf c hc := (e.ready h hi c hc).wf
  write_room c hc := (e.ready h hi c hc).room
  read_byte hc := (e.ready h hi _ hc).byte rfl

/-- What the bus master and the schedule keep for themselves is nothing to the invariants. -/
theorem Inv.bookkeeping {s : State} (h : Inv s) (base draws : Nat) (program : List Item) (schedule : List Turn) :
    Inv { s with base, draws, program, schedule } :=
  { h with fits := { h.fits with }, reset_fits := { h.reset_fits with } }

theorem Inv.afterTurn {s : State} (h : Inv s) : Inv s.afterTurn := by
  unfold State.afterTurn
  split
  · exact h.bookkeeping _ _ _ _
  · exact h.bookkeeping _ _ _ _

/-- Hardware accesses no register. -/
theorem Turn.accessesData_eq_false {u : Turn} {i : Instr} (h : u.instr? = some i) : accessesData i = false := by
  cases u with
  | master | context => cases h
  | txLoad | txDone | rxArrive | modemChange | reset => cases h; rfl

/-- A driver operation is no access by address. -/
theorem Call.accessesData_instr (c : Call) : accessesData c.instr = false := by
  cases c <;> rfl

/-- Settles O56: whatever a step runs has an effect, and only between two operations is it an access of DR by
address. -/
theorem stepKeepsInvariant : Obligations.StepKeepsInvariant := by
  unfold Obligations.StepKeepsInvariant
  intro s t h hs
  have ha := h.afterTurn
  rcases step_cases hs with ⟨i, hi, he⟩ | ⟨-, c, -, he⟩ | ⟨-, hc, i, base, program, -, he⟩ |
    ⟨-, -, i, -, -, hi, he⟩ | ⟨-, -, -, rfl⟩
  · exact (effect_of_exec he).inv ha (by simp [Turn.accessesData_eq_false hi])
  · exact (effect_of_exec he).inv ha (by simp [Call.accessesData_instr])
  · exact (effect_of_exec he).inv (ha.bookkeeping _ _ _ _) fun _ => by simp [hc]
  · refine (effect_of_exec he).inv ha fun hd => ?_
    rcases hi with ⟨c, b, rfl⟩ | ⟨base, rfl⟩ <;> cases hd
  · exact ha

/-- Settles O57: a capacity is at least 1, so a queue is not both empty and full. -/
theorem flagsAreConsistent : Obligations.FlagsAreConsistent := by
  unfold Obligations.FlagsAreConsistent
  intro s h
  have htx := State.txCap_pos h.txDepth_pos
  have hrx := State.rxCap_pos h.rxDepth_pos
  simp only [State.txff, State.txfe, State.rxfe, State.rxff, State.busy, beq_iff_eq, Bool.or_eq_true,
    Bool.or_eq_false_iff, decide_eq_true_eq, decide_eq_false_iff_not]
  exact ⟨by omega, by omega, fun hfe hsh => ⟨by omega, by simp [hsh]⟩, fun hff => .inl (by omega)⟩

end Sys2Proof.Machine
end

section
/-! Cells read back what their effective bits took (spec/10_state.md R23), and the block after RESET (R38, R210). -/

namespace Sys2Proof.Machine

/-- Settles O12: the cell holds the truncation of what was written, and the read returns the cell. -/
theorem cellsReadBackMasked : Obligations.CellsReadBackMasked := by
  unfold Obligations.CellsReadBackMasked
  intro s v wr rd width hb w hcell
  rcases hcell with ⟨rfl, rfl, rfl⟩ | ⟨rfl, rfl, rfl⟩ | ⟨rfl, rfl, rfl⟩ | ⟨rfl, rfl, rfl⟩ |
    ⟨rfl, rfl, rfl⟩
  all_goals
    exact ⟨_, _, State.withBase_of_baseOk hb, State.withBase_of_baseOk hb, getLsbD_trunc _ v, rfl, rfl, rfl, rfl⟩

/-- Whatever the modem inputs are, the rest of FR of an idle block is 0x90 in the default layout: RXFE and TXFE. -/
theorem FlagReg.word_idle (cts dsr dcd ri : Bool) :
    FlagReg.word Layout.default ⟨cts, dsr, dcd, false, true, false, false, true, ri⟩ &&& 0xFFFFFEF8#32
      = 0x90#32 := by
  revert cts dsr dcd ri; decide

/-- In the default layout DR has twelve bits: the byte and its four error bits (R66). -/
theorem DataReg.word_default_lt (d : DataReg) : (d.word Layout.default).toNat < 0x1000 := by
  have bits : ∀ k, (d.word Layout.default).getLsbD k = true → k < 12 := fun k hk => by
    by_contra hge
    have hlist : k ∉ Layout.default.dr.list := by simp [DrBits.list, Layout.default, DrBits.default]; omega
    simp [DataReg.word_zero d (by omega) hlist] at hk
  rw [← trunc_of_bits bits]
  exact trunc_lt 12 _

/-- The derived flags of a block that holds the default RESET_STATE: FEN is clear, so the capacities are 1. -/
theorem State.flagReg_resetBlock {s : State} (hL : s.params.layout = Layout.default)
    (hz : s.params.resetState = ResetState.default) :
    s.resetBlock.flagReg =
      ⟨s.modem 0, s.modem 1, s.modem 2, false, true, false, false, true, s.modem 3⟩ := by
  simp [State.flagReg, State.modem, State.draw, State.busy, State.rxfe, State.txff, State.rxff, State.txfe,
    State.txCap, State.rxCap, lcrhFen, hL, hz, ResetState.default]

/-- Settles O53: RESET copies RESET_STATE, and the reads after it see empty queues. -/
theorem resetRestoresBlock : Obligations.ResetRestoresBlock := by
  unfold Obligations.ResetRestoresBlock
  refine ⟨fun s => rfl, rfl, fun s t hL hz hb ht => ?_⟩
  obtain rfl := next_eq_next.mp ht
  have hb : s.resetBlock.baseOk = true := hb
  refine ⟨⟨_, State.withBase_of_baseOk hb, ?_⟩, ⟨_, State.withBase_of_baseOk hb, ?_⟩⟩
  · rw [State.readFr_readData, State.resetBlock_params, hL, State.flagReg_resetBlock hL hz]
    exact FlagReg.word_idle _ _ _ _
  · rw [State.readDr_readData, State.resetBlock_params, hL]
    exact DataReg.word_default_lt _

end Sys2Proof.Machine
end

section
/-! What the fetch makes of a scheduled turn (spec/20_memory.md R44, R45, R50, R51, R52; spec/30_encoding.md R61): the
entry at the head of the program, an access by address, another context's entry. -/

namespace Sys2Proof.Machine

/-! ## From the fetch to the step -/

theorem step_of_fetch_next {s t : State} {i : Instr} (h : fetch s = .next (some i, t)) : step s = exec i t := by
  simp [step, h]

theorem step_of_fetch_refused {s : State} {r : Refusal} (h : fetch s = .refused r) : step s = .refused r := by
  simp [step, h]

/-- A step depends on whose turn it is and on the state with that turn used up, and on nothing else. -/
theorem step_congr {s t : State} (hturn : s.turn = t.turn) (hafter : s.afterTurn = t.afterTurn) :
    step s = step t := by
  simp only [step, fetch, hturn, hafter]

/-- The state in which the entry at the head of the program runs: its turn and the entry used up, BASE the one it
passes. -/
def State.issued (s : State) (ts : List Turn) (rest : List Item) (base : Option Nat) : State :=
  { s with schedule := ts, program := rest, base := base.getD (s.bindings.head?.getD s.base) }

/-- On the bus master's turn, with no operation running, the head of the program is fetched (R50). -/
theorem fetch_of_head {s : State} {ts : List Turn} {base : Option Nat} {r : Request} {rest : List Item}
    (hs : s.schedule = .master :: ts) (hc : s.call = none) (hp : s.program = ⟨base, r⟩ :: rest) :
    fetch s = fetchRequest r (s.issued ts rest base) := by
  rw [fetch_of_item (State.turn_of_schedule hs) hc hp, State.afterTurn_of_schedule hs]
  rfl

/-! ## Transaction words (R60, R61) -/

theorem fetchWord_of_ok {t : Transaction} {s : State} {i : Instr} (h : decode s.params.layout t = .ok i) :
    fetchWord t s = .next (some i, s) := by
  simp [fetchWord, h]

theorem fetchWord_of_misaligned {t : Transaction} {s : State}
    (h : decode s.params.layout t = .error .misalignedOffset) : fetchWord t s = .refused .badAccess := by
  simp [fetchWord, h]

theorem fetchWord_of_outside {t : Transaction} {s : State}
    (h : decode s.params.layout t = .error .outsideWindow) : fetchWord t s = .refused .outsideWindow := by
  simp [fetchWord, h]

/-- Settles O6: the head of the program is a word, and the fetch of a word has the decoder's three outcomes. -/
theorem stepRunsDecodedWord : Obligations.StepRunsDecodedWord := by
  unfold Obligations.StepRunsDecodedWord
  intro s ts base t rest hs hc hp
  have hf : fetch s = fetchWord t (s.issued ts rest base) := fetch_of_head hs hc hp
  exact ⟨fun i hd => step_of_fetch_next (hf.trans (fetchWord_of_ok hd)),
    fun hd => step_of_fetch_refused (hf.trans (fetchWord_of_misaligned hd)),
    fun hd => step_of_fetch_refused (hf.trans (fetchWord_of_outside hd))⟩

/-! ## Accesses by address (R44, R45, R52) -/

/-- The operand of a read is ignored (R60, R61). -/
theorem selectInstr_read_operand (L : Layout) (off : Offset) (v w : Word) :
    selectInstr L false off v = selectInstr L false off w := by
  unfold selectInstr
  cases Reg.at? L off <;> rfl

/-- An access is decoded as the transaction of its data, written or not. -/
theorem decode_access (L : Layout) (write : Bool) (off : Offset) (v : Word) :
    decode L (transaction write off (if write then v else 0#32)) = decode L (transaction write off v) := by
  cases write with
  | true => rfl
  | false => simpa using selectInstr_read_operand L off 0#32 v

theorem fetchAccess_of_other {a : Access} (s : State) (h : a.master = .other) :
    fetchAccess a s = .refused .sharedAccess := by
  simp [fetchAccess, h]

section
variable {a : Access} {s : State} (owner : a.master = .owner)
include owner

theorem fetchAccess_of_badShape (h : a.size ≠ 4 ∨ a.off % 4 ≠ 0) : fetchAccess a s = .refused .badAccess := by
  simp [fetchAccess, owner, h]

theorem fetchAccess_of_outside (hsize : a.size = 4) (haligned : a.off % 4 = 0)
    (h : s.params.layout.blockSize ≤ a.off) : fetchAccess a s = .refused .outsideWindow := by
  simp [fetchAccess, owner, hsize, haligned, h]

/-- A word-sized aligned access inside the window is the operation of the register at its offset (R44). -/
theorem fetchAccess_of_ok (hsize : a.size = 4) (haligned : a.off % 4 = 0)
    (hin : a.off < s.params.layout.blockSize) {i : Instr}
    (h : decode s.params.layout (transaction a.write (BitVec.ofNat 12 a.off) a.data) = .ok i) :
    fetchAccess a s = .next (some i, s) := by
  rw [← decode_access] at h
  simp only [fetchAccess, owner, hsize, haligned, Nat.not_le.mpr hin, fetchWord_of_ok h, reduceCtorEq, ne_eq,
    not_true_eq_false, or_self, if_false]

end

/-- Settles O8: the head of the program is an access, and the fetch of an access tests the master, the shape and the
window in turn. -/
theorem accessByAddress : Obligations.AccessByAddress := by
  unfold Obligations.AccessByAddress
  intro s ts base a rest hs hc hp
  have hf : fetch s = fetchAccess a (s.issued ts rest base) := fetch_of_head hs hc hp
  exact ⟨fun other => step_of_fetch_refused (hf.trans (fetchAccess_of_other _ other)),
    fun owner shape => step_of_fetch_refused (hf.trans (fetchAccess_of_badShape owner shape)),
    fun owner hsize haligned hin i hd =>
      step_of_fetch_next (hf.trans (fetchAccess_of_ok (s := s.issued ts rest base) owner hsize haligned hin hd)),
    fun owner hsize haligned hout =>
      step_of_fetch_refused (hf.trans (fetchAccess_of_outside owner hsize haligned hout))⟩

/-! ## Other turns (R51, R199) -/

theorem fetch_of_scheduled_context {s : State} {ts : List Turn} {item : Item}
    (hs : s.schedule = .context item :: ts) : fetch s = fetchContext item { s with schedule := ts } := by
  rw [fetch_of_context (State.turn_of_schedule hs), State.afterTurn_of_schedule hs]

/-- Between two operations another context's entry is fetched as the head of the program would be (R199). -/
theorem fetch_context_eq_head {s : State} {ts : List Turn} {item : Item}
    (hs : s.schedule = .context item :: ts) (hc : s.call = none) :
    fetch s = fetch { s with schedule := .master :: ts, program := item :: s.program } := by
  have head : fetch { s with schedule := .master :: ts, program := item :: s.program } =
      fetchItem item { s with schedule := ts } := fetch_of_head (base := item.base) rfl hc rfl
  rw [head, fetch_of_scheduled_context hs]
  simp only [fetchContext, hc]

/-- With an empty schedule the free turn might as well have been scheduled (R37, R51). -/
theorem step_of_free_turn {s : State} (hs : s.schedule = []) :
    step s = step { s with schedule := [s.turn], draws := s.draws + 1 } := by
  apply step_congr
  · rfl
  · simp [State.afterTurn, State.spend, hs]

/-- Settles O7: one clause per kind of turn, each the fetch of that turn. -/
theorem stepFollowsScheduleAndProgram : Obligations.StepFollowsScheduleAndProgram := by
  unfold Obligations.StepFollowsScheduleAndProgram
  refine ⟨fun s turn ts i hs hi => ?_, fun s ts c hs hc => ?_, fun s ts base op rest hs hc hp => ?_,
    fun s ts hs hc hp => ?_, fun s ts item hs hc => ?_, fun s hs => ⟨_, step_of_free_turn hs⟩⟩
  · have hrun : s.turn.instr? = some i := by
      rw [State.turn_of_schedule hs]
      rcases hi with ⟨rfl, rfl⟩ | ⟨rfl, rfl⟩ | ⟨d, rfl, rfl⟩ | ⟨rfl, rfl⟩ | ⟨rfl, rfl⟩ <;> rfl
    rw [step_of_hardware hrun, State.afterTurn_of_schedule hs]
  · rw [step_of_call (State.turn_of_schedule hs) hc, State.afterTurn_of_schedule hs]
  · exact step_of_fetch_next (fetch_of_head hs hc hp)
  · rw [step_of_idle (State.turn_of_schedule hs) hc hp, State.afterTurn_of_schedule hs]
  · simp only [step, fetch_context_eq_head hs hc]

end Sys2Proof.Machine
end

section
/-! Two callers on one instance (spec/20_memory.md R52, spec/60_exceptions.md R199). -/

namespace Sys2Proof.Machine

/-! ## Another context in the middle of an operation -/

/-- Only the divisor calculator and the construction of an instance share nothing with the block (R130, R212). -/
theorem Request.sharesBlock_of_ne {r : Request} (hd : ∀ c b, r ≠ .call (.bauddiv c b))
    (hb : ∀ base, r ≠ .call (.bind base)) : r.sharesBlock = true := by
  rcases r with t | a | op
  · rfl
  · rfl
  · cases op with
    | bauddiv c b => exact absurd rfl (hd c b)
    | bind base => exact absurd rfl (hb base)
    | init | writeByte | readByte | writeBytes | writeStr => rfl

section
variable {s : State} {c : Call} {item : Item} (hc : s.call = some c)
include hc

theorem fetchContext_of_shared (h : item.request.sharesBlock = true) :
    fetchContext item s = .refused .sharedAccess := by
  simp [fetchContext, hc, h]

/-- What shares nothing with the running operation runs in the state as it is, its BASE included. -/
theorem fetchContext_of_unshared {op : DriverOp} (h : item.request = .call op)
    (hop : (Request.call op).sharesBlock = false) : fetchContext item s = .next (some op.instr, s) := by
  simp [fetchContext, hc, h, hop, fetchRequest]

end

/-! ## A driver operation that meets a different running one -/

section
variable {s : State} {c : Call} (hc : s.call = some c)
include hc

theorem execInit_of_different {c' b' : Nat} (rate : s.params.baud b' ≠ 0) (h : Instr.init c' b' ≠ c.instr) :
    execInit c' b' s = .refused .sharedAccess := by
  cases c with
  | init c b ph =>
    have : ¬ (c = c' ∧ b = b') := by rintro ⟨rfl, rfl⟩; exact h rfl
    simp [execInit, hc, rate, this]
  | _ => simp [execInit, hc, rate]

theorem execWriteByte_of_different {b' : Byte} (h : Instr.writeByte b' ≠ c.instr) :
    execWriteByte b' s = .refused .sharedAccess := by
  cases c with
  | writeByte b ph =>
    have : b ≠ b' := by rintro rfl; exact h rfl
    simp [execWriteByte, hc, this]
  | _ => simp [execWriteByte, hc]

theorem execReadByte_of_different (h : Instr.readByte ≠ c.instr) : execReadByte s = .refused .sharedAccess := by
  cases c with
  | readByte ph => exact absurd rfl h
  | _ => simp [execReadByte, hc]

theorem execWriteBytes_of_different {bytes' : List Byte} (h : Instr.writeBytes bytes' ≠ c.instr) :
    execWriteBytes bytes' s = .refused .sharedAccess := by
  cases c with
  | writeBytes bytes n ph =>
    have : bytes ≠ bytes' := by rintro rfl; exact h rfl
    simp [execWriteBytes, hc, this]
  | _ => simp [execWriteBytes, hc]

theorem execWriteStr_of_different {text' : List Char} (h : Instr.writeStr text' ≠ c.instr) :
    execWriteStr text' s = .refused .sharedAccess := by
  cases c with
  | writeStr text n ph =>
    have : text ≠ text' := by rintro rfl; exact h rfl
    simp [execWriteStr, hc, this]
  | _ => simp [execWriteStr, hc]

end

/-- Settles O39: another context's entry is refused where it shares the block and run where it does not; a driver
operation continues only the call of its own operands. -/
theorem interleavedCallsRefused : Obligations.InterleavedCallsRefused := by
  unfold Obligations.InterleavedCallsRefused
  refine ⟨fun s ts item c hs hc => ?_, fun s c op hc hne hd hb rate => ?_⟩
  · have hf := fetch_of_scheduled_context hs
    have hc' : { s with schedule := ts }.call = some c := hc
    exact ⟨fun hd hb =>
        step_of_fetch_refused (hf.trans (fetchContext_of_shared hc' (Request.sharesBlock_of_ne hd hb))),
      fun c' b' hr => step_of_fetch_next (hf.trans (fetchContext_of_unshared hc' hr rfl)),
      fun base hr => step_of_fetch_next (hf.trans (fetchContext_of_unshared hc' hr rfl))⟩
  · cases op with
    | bauddiv c' b' => exact absurd rfl (hd c' b')
    | bind base => exact absurd rfl (hb base)
    | init c' b' => exact execInit_of_different hc (rate c' b' rfl) hne
    | writeByte b' => exact execWriteByte_of_different hc hne
    | readByte => exact execReadByte_of_different hc hne
    | writeBytes bytes' => exact execWriteBytes_of_different hc hne
    | writeStr text' => exact execWriteStr_of_different hc hne

end Sys2Proof.Machine
end

section
/-! BASE (spec/20_memory.md R41, spec/70_reset_and_hazards.md R212): what makes it good, what a bad one refuses, and
what BIND makes of it. -/

namespace Sys2Proof.Machine

/-- What a good BASE is, said of BASE alone (R41). -/
theorem State.baseOk_iff_base {s : State} :
    s.baseOk = true ↔ s.base = s.blockBase ∧ s.base % 4 = 0 ∧ s.bindings.count s.base ≤ 1 := by
  rw [State.baseOk_iff]
  exact and_congr_right fun h => by rw [h]

/-- Every access of a listed register goes through BASE (R41). -/
theorem exec_eq_withBase {s : State} {i : Instr} {L : Layout} (hw : (encode L i).isSome = true)
    (hr : ∀ off, i ≠ .rdReserved off) (hw' : ∀ off v, i ≠ .wrReserved off v) :
    ∃ r, exec i s = s.withBase r := by
  cases i with
  | rdReserved off => exact absurd rfl (hr off)
  | wrReserved off v => exact absurd rfl (hw' off v)
  | bauddiv | init | writeByte | readByte | writeBytes | writeStr | bind => cases hw
  | txLoad | txDone | rxArrive | modemChange | reset => cases hw
  | _ => exact ⟨_, rfl⟩

/-! ## The phases of the driver on a bad BASE -/

section
variable {s : State} (bad : s.baseOk = false)
include bad

theorem initPhase_of_bad (c b : Nat) (ph : InitPhase) : initPhase c b ph s = .refused .badBase :=
  State.withBase_of_bad bad

theorem sendPhase_of_bad (at_ : XferPhase → Call) (after : Option Call) (b : Byte) (ph : XferPhase) :
    sendPhase at_ after b ph s = .refused .badBase :=
  State.withBase_of_bad bad

theorem receivePhase_of_bad (ph : XferPhase) : receivePhase ph s = .refused .badBase :=
  State.withBase_of_bad bad

theorem sendSequence_of_bad {bytes : List Byte} (at_ : Nat → XferPhase → Call) {n : Nat} (ph : XferPhase)
    (hn : n < bytes.length) : sendSequence bytes at_ n ph s = .refused .badBase := by
  simp only [sendSequence, List.getElem?_eq_getElem hn, sendPhase_of_bad bad]

/-- A driver operation that goes on in phase `c`, or starts in it, is refused on a bad BASE. -/
theorem exec_call_of_bad {c : Call} (wf : c.wf s.params = true)
    (hc : s.call = some c ∨ s.call = none ∧ firstPhase? c.instr = some c) :
    exec c.instr s = .refused .badBase := by
  cases c with
  | init c b ph =>
    have rate : s.params.baud b ≠ 0 := bne_iff_ne.mp wf
    rcases hc with hc | ⟨hc, -⟩
    · simp [Call.instr, exec, execInit, rate, hc, initPhase_of_bad bad]
    · simp only [Call.instr, exec, execInit, rate, hc, if_false]
      exact State.withBase_of_bad bad
  | writeByte b ph =>
    rcases hc with hc | ⟨hc, -⟩ <;> simp [Call.instr, exec, execWriteByte, hc, sendPhase_of_bad bad]
  | readByte ph =>
    rcases hc with hc | ⟨hc, -⟩ <;> simp [Call.instr, exec, execReadByte, hc, receivePhase_of_bad bad]
  | writeBytes bytes n ph =>
    have hn : n < bytes.length := of_decide_eq_true wf
    rcases hc with hc | ⟨hc, -⟩
    · simp [Call.instr, exec, execWriteBytes, hc, sendSequence_of_bad bad _ _ hn]
    · simp [Call.instr, exec, execWriteBytes, hc, sendSequence_of_bad bad _ _ (Nat.zero_lt_of_lt hn)]
  | writeStr text n ph =>
    have hn : n < (s.params.encode text).length := of_decide_eq_true wf
    rcases hc with hc | ⟨hc, -⟩
    · simp [Call.instr, exec, execWriteStr, hc, sendSequence_of_bad bad _ _ hn]
    · simp [Call.instr, exec, execWriteStr, hc, sendSequence_of_bad bad _ _ (Nat.zero_lt_of_lt hn)]

end

/-- Settles O40: accesses of listed registers and phases of the driver go through BASE. -/
theorem badBaseRefusesDriver : Obligations.BadBaseRefusesDriver := by
  unfold Obligations.BadBaseRefusesDriver
  refine ⟨fun s => State.baseOk_iff_base, fun s i bad hw hrd hwr => ?_,
    fun s c bad hc wf => exec_call_of_bad bad wf (.inl hc), fun s op bad hc hop => ?_⟩
  · obtain ⟨r, hr⟩ := exec_eq_withBase (s := s) hw hrd hwr
    rw [hr, State.withBase_of_bad bad]
  · have start {c : Call} (wf : c.wf s.params = true) (first : firstPhase? c.instr = some c) :
        exec c.instr s = .refused .badBase := exec_call_of_bad bad wf (.inr ⟨hc, first⟩)
    rcases hop with ⟨c, b, rfl, rate⟩ | ⟨b, rfl⟩ | rfl | ⟨bytes, rfl, hne⟩ | ⟨text, rfl, hne⟩
    · exact start (c := .init c b .I0) (bne_iff_ne.mpr rate) rfl
    · exact start (c := .writeByte b .POLL) rfl rfl
    · exact start (c := .readByte .POLL) rfl rfl
    · exact start (c := .writeBytes bytes 0 .POLL) (decide_eq_true (List.length_pos_iff.mpr hne)) rfl
    · exact start (c := .writeStr text 0 .POLL) (decide_eq_true (List.length_pos_iff.mpr hne)) rfl

/-- Settles O55: the newest binding is the BASE of an entry that passes none, and it is bound once exactly when it was
not bound before. -/
theorem bindRecordsBase : Obligations.BindRecordsBase := by
  unfold Obligations.BindRecordsBase
  intro s base
  have once : (base :: s.bindings).count base ≤ 1 ↔ base ∉ s.bindings := by
    rw [List.count_cons_self, ← List.count_eq_zero]
    omega
  exact ⟨rfl, rfl, State.baseOk_iff_base.trans (and_congr_right fun _ => and_congr_right fun _ => once)⟩

end Sys2Proof.Machine
end

section
/-! Transaction words as numbers (spec/30_encoding.md R60). -/

namespace Sys2Proof

/-- Concatenation places the left operand above the right one. -/
theorem toNat_append_add {m n : Nat} (x : BitVec m) (y : BitVec n) :
    (x ++ y).toNat = x.toNat * 2 ^ n + y.toNat := by
  rw [BitVec.toNat_append, ← Nat.shiftLeft_add_eq_or_of_lt y.isLt, Nat.shiftLeft_eq]

/-- `T` as a number: its three fields at their places. -/
theorem toNat_transaction (write : Bool) (off : Offset) (v : Word) :
    (transaction write off v).toNat = write.toNat * 2 ^ 44 + off.toNat * 2 ^ 32 + v.toNat := by
  rw [transaction, toNat_append_add, toNat_append_add, BitVec.toNat_ofBool]
  omega

theorem dirOf_eq (t : Transaction) : dirOf t = decide (t.toNat / 2 ^ 44 % 2 = 1) := by
  rw [dirOf, ← BitVec.testBit_toNat, Nat.testBit_eq_decide_div_mod_eq]

theorem toNat_offsetOf (t : Transaction) : (offsetOf t).toNat = t.toNat / 2 ^ 32 % 2 ^ 12 := by
  rw [offsetOf, BitVec.extractLsb'_toNat, Nat.shiftRight_eq_div_pow]

theorem toNat_wdataOf (t : Transaction) : (wdataOf t).toNat = t.toNat % 2 ^ 32 := by
  rw [wdataOf, BitVec.extractLsb'_toNat, Nat.shiftRight_zero]

/-- Settles O1: the word is the sum of its fields at their places, and each field is read back there. -/
theorem transactionWordLayout : Obligations.TransactionWordLayout := by
  unfold Obligations.TransactionWordLayout
  refine ⟨fun write off v => ?_, fun t => ⟨dirOf_eq t, toNat_offsetOf t, toNat_wdataOf t⟩⟩
  rw [toNat_transaction]
  cases write <;> rfl

end Sys2Proof
end

section
/-! What an access selects (spec/30_encoding.md R61, R62, R64): the offset finds a row of the map or none, the direction
its column. -/

namespace Sys2Proof

theorem wordAligned_iff {off : Offset} : wordAligned off = true ↔ off.toNat % 4 = 0 := by
  rw [wordAligned, beq_iff_eq, ← BitVec.toNat_inj, BitVec.toNat_and]
  exact Eq.congr_left (Nat.and_two_pow_sub_one_eq_mod off.toNat 2)

/-- The operation of an admitted access whose offset finds the row `row` of the map, or none. -/
def operationAt (write : Bool) (off : Offset) (v : Word) (row : Option Reg) : Instr :=
  match row with
  | some r => if write then r.writeInstr v else r.readInstr
  | none => if write then .wrReserved off v else .rdReserved off

/-- An access is rejected for its alignment, then for the window; else it is the operation of its row. -/
theorem selectInstr_eq (L : Layout) (write : Bool) (off : Offset) (v : Word) :
    selectInstr L write off v =
      if off.toNat % 4 ≠ 0 then .error .misalignedOffset
      else if L.blockSize ≤ off.toNat then .error .outsideWindow
      else .ok (operationAt write off v (Reg.at? L off)) := by
  simp only [selectInstr, wordAligned_iff, ite_not, ← Nat.not_lt]
  cases Reg.at? L off <;> cases write <;> rfl

/-- When an access selects an operation, and which one. -/
theorem selectInstr_eq_ok {L : Layout} {write : Bool} {off : Offset} {v : Word} {i : Instr} :
    selectInstr L write off v = .ok i ↔
      wordAligned off = true ∧ off.toNat < L.blockSize ∧ i = operationAt write off v (Reg.at? L off) := by
  rw [selectInstr_eq, wordAligned_iff, ← Nat.not_le]
  by_cases haligned : off.toNat % 4 = 0
  · by_cases hout : L.blockSize ≤ off.toNat
    · simp [haligned, hout]
    · simp [haligned, hout, eq_comm]
  · simp [haligned]

/-- A search of the map tries its first row first. -/
theorem Reg.find?_offset_cons (L : Layout) (off : Offset) (r : Reg) (rows : List Reg) :
    (r :: rows).find? (fun r => r.offset L == off) =
      if off = r.offset L then some r else rows.find? fun r => r.offset L == off := by
  by_cases h : off = r.offset L
  · simp [h]
  · simp [h, Ne.symm h]

/-- The rows of the map are searched in its order (R62). -/
theorem Reg.at?_eq (L : Layout) (off : Offset) :
    Reg.at? L off =
      if off = L.off.dr then some .dr
      else if off = L.off.fr then some .fr
      else if off = L.off.ibrd then some .ibrd
      else if off = L.off.fbrd then some .fbrd
      else if off = L.off.lcrh then some .lcrh
      else if off = L.off.cr then some .cr
      else if off = L.off.ifls then some .ifls
      else if off = L.off.imsc then some .imsc
      else if off = L.off.ris then some .ris
      else if off = L.off.mis then some .mis
      else if off = L.off.icr then some .icr
      else none := by
  simp only [Reg.at?, Reg.all, Reg.find?_offset_cons, List.find?_nil]
  rfl

/-- Settles O2: the row of the map is found by searching it in order, and the operation is taken at that row. -/
theorem decodeFollowsRegisterMap : Obligations.DecodeFollowsRegisterMap := by
  unfold Obligations.DecodeFollowsRegisterMap
  refine ⟨fun L write off v => ?_, rfl, rfl⟩
  rw [decode_transaction, selectInstr_eq, Reg.at?_eq]
  simp only [apply_ite (operationAt write off v), apply_ite (Except.ok (ε := DecodeError))]
  cases write <;> rfl

/-- The eleven offsets of the default layout as numbers (R62). -/
theorem Offsets.mem_default_list {off : Offset} :
    off ∈ Layout.default.off.list ↔
      off.toNat ∈ [0x000, 0x018, 0x024, 0x028, 0x02C, 0x030, 0x034, 0x038, 0x03C, 0x040, 0x044] :=
  (List.mem_map_of_injective BitVec.toNat_injective).symm

/-- Settles O15: such an offset is reserved, so either direction selects a reserved access, which has no meaning. -/
theorem reservedAccessesRefused : Obligations.ReservedAccessesRefused := by
  unfold Obligations.ReservedAccessesRefused
  refine ⟨fun s off v haligned hin hlist => ?_, fun off => not_congr Offsets.mem_default_list⟩
  have reserved : s.params.layout.reserved off = true :=
    Layout.reserved_iff.mpr ⟨wordAligned_iff.mpr haligned, hin, hlist⟩
  have decoded (write : Bool) : decode s.params.layout (transaction write off v) =
      .ok (if write then .wrReserved off v else .rdReserved off) := by
    rw [decode_transaction, selectInstr_reserved write v reserved]
  exact ⟨decoded false, decoded true, rfl, rfl⟩

end Sys2Proof
end

section
/-! Decode and encode invert each other (spec/30_encoding.md R60, R61, R62, R64). -/

namespace Sys2Proof

/-- The operation of a row goes to the offset of that row. -/
theorem busForm_operationAt_some (L : Layout) (write : Bool) (off : Offset) (v : Word) (r : Reg) :
    (operationAt write off v (some r)).busForm L = some (write, r.offset L, if write then v else 0#32) := by
  cases write <;> cases r <;> rfl

/-- A reserved access goes to its own offset. -/
theorem busForm_operationAt_none (L : Layout) (write : Bool) (off : Offset) (v : Word) :
    (operationAt write off v none).busForm L = some (write, off, if write then v else 0#32) := by
  cases write <;> rfl

/-- An operation with a bus form is the operation of a row at the row's offset, or a reserved access. -/
theorem operationAt_of_busForm {L : Layout} {i : Instr} {write : Bool} {off : Offset} {v : Word}
    (h : i.busForm L = some (write, off, v)) :
    (∃ r, off = r.offset L ∧ i = operationAt write off v (some r)) ∨ i = operationAt write off v none := by
  cases i with
  | rdDr | wrDr => cases h; exact .inl ⟨.dr, rfl, rfl⟩
  | rdFr | wrFr => cases h; exact .inl ⟨.fr, rfl, rfl⟩
  | rdIbrd | wrIbrd => cases h; exact .inl ⟨.ibrd, rfl, rfl⟩
  | rdFbrd | wrFbrd => cases h; exact .inl ⟨.fbrd, rfl, rfl⟩
  | rdLcrh | wrLcrh => cases h; exact .inl ⟨.lcrh, rfl, rfl⟩
  | rdCr | wrCr => cases h; exact .inl ⟨.cr, rfl, rfl⟩
  | rdIfls | wrIfls => cases h; exact .inl ⟨.ifls, rfl, rfl⟩
  | rdImsc | wrImsc => cases h; exact .inl ⟨.imsc, rfl, rfl⟩
  | rdRis | wrRis => cases h; exact .inl ⟨.ris, rfl, rfl⟩
  | rdMis | wrMis => cases h; exact .inl ⟨.mis, rfl, rfl⟩
  | rdIcr | wrIcr => cases h; exact .inl ⟨.icr, rfl, rfl⟩
  | rdReserved | wrReserved => cases h; exact .inr rfl
  | bauddiv | init | writeByte | readByte | writeBytes | writeStr | bind => cases h
  | txLoad | txDone | rxArrive | modemChange | reset => cases h

/-- The operation of a row is well-formed. -/
theorem wf_operationAt_some (L : Layout) (write : Bool) (off : Offset) (v : Word) (r : Reg) :
    (operationAt write off v (some r)).wf L = true := by
  cases write <;> cases r <;> rfl

/-- A reserved access is well-formed at a reserved offset (R64). -/
theorem wf_operationAt_none (L : Layout) (write : Bool) (off : Offset) (v : Word) :
    (operationAt write off v none).wf L = L.reserved off := by
  cases write <;> rfl

theorem encode_of_busForm {L : Layout} {i : Instr} {write : Bool} {off : Offset} {v : Word}
    (h : i.busForm L = some (write, off, v)) : encode L i = some (transaction write off v) := by
  simp only [encode, h]

theorem decode_encode {L : Layout} {i : Instr} {t : Transaction} (hL : L.wf = true) (hi : i.wf L = true)
    (h : encode L i = some t) : decode L t = .ok i := by
  obtain ⟨write, off, v, hb, rfl⟩ := encode_eq_some h
  rw [decode_transaction]
  rcases operationAt_of_busForm hb with ⟨r, rfl, rfl⟩ | rfl
  · exact selectInstr_offset hL write r v
  · exact selectInstr_reserved write v (wf_operationAt_none L write off v ▸ hi)

/-- Settles O4: the word of an operation is the access of its row or a reserved access, which select it again; the
operations without a word are read off the table. -/
theorem decodeInvertsEncode : Obligations.DecodeInvertsEncode := by
  unfold Obligations.DecodeInvertsEncode
  refine ⟨fun L i t => decode_encode, fun L i => ⟨fun h => ?_, ?_⟩⟩
  · cases i with
    | bauddiv | init | writeByte | readByte | writeBytes | writeStr | bind => simp
    | txLoad | txDone | rxArrive | modemChange | reset => simp
    | _ => cases h
  · rintro (⟨c, b, rfl⟩ | ⟨c, b, rfl⟩ | ⟨b, rfl⟩ | rfl | ⟨s, rfl⟩ | ⟨s, rfl⟩ | ⟨base, rfl⟩ | rfl | rfl | ⟨d, rfl⟩ |
      rfl | rfl) <;> rfl

/-- Settles O5: what is decoded is the operation of the row found at the offset, or a reserved access where none is
found. -/
theorem encodeInvertsDecode : Obligations.EncodeInvertsDecode := by
  unfold Obligations.EncodeInvertsDecode
  intro L t i h
  obtain ⟨haligned, hin, rfl⟩ := selectInstr_eq_ok.mp h
  cases hrow : Reg.at? L (offsetOf t) with
  | some r =>
    refine ⟨wf_operationAt_some .., ?_⟩
    rw [encode_of_busForm (busForm_operationAt_some ..), Reg.offset_of_at? hrow]
  | none =>
    have reserved : L.reserved (offsetOf t) = true :=
      Layout.reserved_iff.mpr ⟨haligned, hin, Reg.at?_eq_none_iff.mp hrow⟩
    exact ⟨(wf_operationAt_none ..).trans reserved, encode_of_busForm (busForm_operationAt_none ..)⟩

end Sys2Proof
end

section
/-! Each step of a driver operation is one register access (spec/30_encoding.md R77, spec/42_initialize.md R140,
spec/43_transfer.md R150 to R153). -/

namespace Sys2Proof.Machine

/-- The step from `s` to `t` is the access `access?`, up to the driver's own record; without an access it ends the
running operation. -/
def MakesAccess (s t : State) (access? : Option Instr) : Prop :=
  (∀ a, access? = some a → ∃ u, exec a s = .next u ∧ t.accessView = u.accessView) ∧
    (access? = none → t = { s with call := none })

/-- An access that leaves the same state but for the driver's own record. -/
theorem MakesAccess.of_exec {s t u : State} {a : Instr} (run : exec a s = .next u)
    (view : t.accessView = u.accessView) : MakesAccess s t (some a) :=
  ⟨fun _ ha => by cases ha; exact ⟨u, run, view⟩, nofun⟩

theorem MakesAccess.of_noAccess (s : State) : MakesAccess s (s.setCall none) none :=
  ⟨nofun, fun _ => rfl⟩

/-! ## The phases -/

theorem initPhase_makesAccess {c b : Nat} {ph : InitPhase} {s t : State} (h : initPhase c b ph s = .next t) :
    MakesAccess s t ((Call.init c b ph).access? s) := by
  obtain ⟨hb, h⟩ := initPhase_eq_next.mp h
  cases ph with
  | I0 | I1 | I3 => subst h; exact .of_exec (State.withBase_of_baseOk hb) rfl
  | I2 => obtain ⟨u, hu, rfl⟩ := h; exact .of_exec ((State.withBase_of_baseOk hb).trans hu) rfl

/-- The divisor that INIT records when it starts reaches no access (R140). -/
theorem initPhase_start_makesAccess {c b : Nat} {d : Divisor} {s t : State}
    (h : initPhase c b .I0 { s with divisor := d } = .next t) :
    MakesAccess s t ((Call.init c b .I0).access? s) := by
  obtain ⟨hb, rfl⟩ := initPhase_eq_next.mp h
  exact .of_exec (State.withBase_of_baseOk (s := s) hb) rfl

theorem sendPhase_makesAccess {at_ : XferPhase → Call} {after : Option Call} {bytes : List Byte} {n : Nat} {b : Byte}
    {ph : XferPhase} {s t : State} (hn : bytes[n]? = some b) (h : sendPhase at_ after b ph s = .next t) :
    MakesAccess s t (sendAccess bytes n ph) := by
  obtain ⟨hb, h⟩ := sendPhase_eq_next.mp h
  cases ph with
  | POLL =>
    subst h
    rw [sendAccess, hn]
    exact .of_exec (State.withBase_of_baseOk hb) rfl
  | ACT =>
    obtain ⟨room, rfl⟩ := h
    rw [sendAccess, hn]
    refine .of_exec ((State.withBase_of_baseOk hb).trans (State.writeDr_eq_next.mpr ⟨room, rfl⟩)) ?_
    rw [dataOperand_zext32]
    rfl

theorem receivePhase_makesAccess {ph : XferPhase} {s t : State} (h : receivePhase ph s = .next t) :
    MakesAccess s t ((Call.readByte ph).access? s) := by
  obtain ⟨hb, h⟩ := receivePhase_eq_next.mp h
  cases ph <;> subst h <;> exact .of_exec (State.withBase_of_baseOk hb) rfl

theorem sendSequence_makesAccess {bytes : List Byte} {at_ : Nat → XferPhase → Call} {n : Nat} {ph : XferPhase}
    {s t : State} (h : sendSequence bytes at_ n ph s = .next t) : MakesAccess s t (sendAccess bytes n ph) := by
  rcases sendSequence_eq_next.mp h with ⟨hend, rfl⟩ | ⟨b, hn, h⟩
  · have past : sendAccess bytes n ph = none := by
      cases ph <;> simp [sendAccess, List.getElem?_eq_none hend]
    rw [past]
    exact .of_noAccess s
  · exact sendPhase_makesAccess hn h

/-! ## Which phase an operation is in -/

theorem busAccess_of_start {i : Instr} {first : Call} {s : State} (hi : firstPhase? i = some first)
    (hc : s.call = none) : busAccess i s = first.access? s := by
  simp [busAccess, hi, hc]

theorem busAccess_of_call {i : Instr} {first c : Call} {s : State} (hi : firstPhase? i = some first)
    (hc : s.call = some c) : busAccess i s = c.access? s := by
  simp [busAccess, hi, hc]

/-- Settles O37: an operation that answers is in its first phase or in that of its own call, and each phase makes its
access. -/
theorem driverStepsAreRegisterAccesses : Obligations.DriverStepsAreRegisterAccesses := by
  unfold Obligations.DriverStepsAreRegisterAccesses
  intro i s t h hi
  change MakesAccess s t (busAccess i s)
  rcases hi with ⟨c, b, rfl⟩ | ⟨b, rfl⟩ | rfl | ⟨bytes, rfl⟩ | ⟨text, rfl⟩
  · obtain ⟨-, ⟨hc, h⟩ | ⟨ph, hc, h⟩⟩ := execInit_eq_next.mp h
    · rw [busAccess_of_start rfl hc]; exact initPhase_start_makesAccess h
    · rw [busAccess_of_call rfl hc]; exact initPhase_makesAccess h
  · obtain ⟨ph, ⟨hc, rfl⟩ | hc, h⟩ := execWriteByte_eq_next.mp h
    · rw [busAccess_of_start rfl hc]; exact sendPhase_makesAccess (bytes := [b]) (n := 0) rfl h
    · rw [busAccess_of_call rfl hc]; exact sendPhase_makesAccess (bytes := [b]) (n := 0) rfl h
  · obtain ⟨ph, ⟨hc, rfl⟩ | hc, h⟩ := execReadByte_eq_next.mp h
    · rw [busAccess_of_start rfl hc]; exact receivePhase_makesAccess h
    · rw [busAccess_of_call rfl hc]; exact receivePhase_makesAccess h
  · obtain ⟨n, ph, ⟨hc, rfl, rfl⟩ | hc, h⟩ := execWriteBytes_eq_next.mp h
    · rw [busAccess_of_start rfl hc]; exact sendSequence_makesAccess h
    · rw [busAccess_of_call rfl hc]; exact sendSequence_makesAccess h
  · obtain ⟨n, ph, ⟨hc, rfl, rfl⟩ | hc, h⟩ := execWriteStr_eq_next.mp h
    · rw [busAccess_of_start rfl hc]; exact sendSequence_makesAccess h
    · rw [busAccess_of_call rfl hc]; exact sendSequence_makesAccess h

end Sys2Proof.Machine
end

section
/-! Free values show only in the value last read (spec/40_register_access.md R90, R92; spec/43_transfer.md R151): an
operation tests no free value, and puts one nowhere but into the value read. -/

namespace Sys2Proof.Machine

/-- The state with other free values to come. -/
def State.withDraws (s : State) (n : Nat) : State := { s with draws := n }

@[simp] theorem State.withDraws_call (s : State) (n : Nat) : (s.withDraws n).call = s.call := rfl

@[simp] theorem State.withDraws_txShift (s : State) (n : Nat) : (s.withDraws n).txShift = s.txShift := rfl

/-- Tests that no free value decides keep two results alike. -/
theorem Result.undrawn_ite {p : Prop} [Decidable p] {r r' u u' : Result} (hr : Result.undrawn r = Result.undrawn r')
    (hu : Result.undrawn u = Result.undrawn u') :
    Result.undrawn (if p then r else u) = Result.undrawn (if p then r' else u') := by
  split
  · exact hr
  · exact hu

/-- What follows an access is to set the running operation, which no free value shows in. -/
theorem Result.undrawn_andThen_setCall {r r' : Result} (c : Option Call)
    (h : Result.undrawn r = Result.undrawn r') :
    Result.undrawn (Result.andThen r fun t => .next (t.setCall c)) =
      Result.undrawn (Result.andThen r' fun t => .next (t.setCall c)) := by
  have setCall (q : Result) : Result.undrawn (Result.andThen q fun t => .next (t.setCall c)) =
      Result.andThen (Result.undrawn q) fun t => .next (t.setCall c) := by cases q <;> rfl
  rw [setCall, setCall, h]

section
variable (s : State) (n : Nat)

theorem State.undrawn_withBase {r r' : Result} (h : Result.undrawn r = Result.undrawn r') :
    Result.undrawn ((s.withDraws n).withBase r) = Result.undrawn (s.withBase r') :=
  Result.undrawn_ite h rfl

theorem State.undrawn_writeDr (v : Word) :
    Result.undrawn ((s.withDraws n).writeDr v) = Result.undrawn (s.writeDr v) :=
  Result.undrawn_ite rfl rfl

theorem State.undrawn_writeLcrh (v : Word) :
    Result.undrawn ((s.withDraws n).writeLcrh v) = Result.undrawn (s.writeLcrh v) :=
  Result.undrawn_ite rfl (Result.undrawn_ite rfl rfl)

/-! ## The phases of the driver -/

theorem undrawn_initPhase (c b : Nat) (ph : InitPhase) :
    Result.undrawn (initPhase c b ph (s.withDraws n)) = Result.undrawn (initPhase c b ph s) := by
  refine State.undrawn_withBase s n ?_
  cases ph with
  | I0 | I1 | I3 => rfl
  | I2 => exact Result.undrawn_andThen_setCall _ (State.undrawn_writeLcrh s n _)

/-- A poll tests TXFF, which is no free value. -/
theorem undrawn_sendPhase (at_ : XferPhase → Call) (after : Option Call) (b : Byte) (ph : XferPhase) :
    Result.undrawn (sendPhase at_ after b ph (s.withDraws n)) =
      Result.undrawn (sendPhase at_ after b ph s) := by
  refine State.undrawn_withBase s n ?_
  cases ph with
  | POLL => rfl
  | ACT => exact Result.undrawn_andThen_setCall _ (State.undrawn_writeDr s n _)

theorem undrawn_sendSequence (bytes : List Byte) (at_ : Nat → XferPhase → Call) (k : Nat) (ph : XferPhase) :
    Result.undrawn (sendSequence bytes at_ k ph (s.withDraws n)) =
      Result.undrawn (sendSequence bytes at_ k ph s) := by
  unfold sendSequence
  cases bytes[k]? with
  | none => rfl
  | some b => exact undrawn_sendPhase s n _ _ b ph

/-- With a byte queued, the byte returned is that one and no free value (R151). -/
theorem undrawn_receivePhase (ph : XferPhase) (byte : ph = .ACT → s.rxFifo ≠ []) :
    Result.undrawn (receivePhase ph (s.withDraws n)) = Result.undrawn (receivePhase ph s) := by
  refine State.undrawn_withBase s n ?_
  cases ph with
  | POLL => rfl
  | ACT =>
    obtain ⟨d, rest, hd⟩ := List.exists_cons_of_ne_nil (byte rfl)
    have same : (s.withDraws n).dataReg.data = s.dataReg.data := by
      rw [State.dataReg_cons hd, State.dataReg_cons (s := s.withDraws n) hd]
    simp only [same]
    rfl

/-! ## The operations of the driver and of the line -/

theorem undrawn_execInit (c b : Nat) :
    Result.undrawn (execInit c b (s.withDraws n)) = Result.undrawn (execInit c b s) := by
  refine Result.undrawn_ite rfl ?_
  rw [State.withDraws_call]
  rcases s.call with _ | ⟨c', b', ph⟩ | _ | _ | _ | _
  case none => exact undrawn_initPhase { s with divisor := s.params.divisor c b } n c b .I0
  case some.init => exact Result.undrawn_ite (undrawn_initPhase s n c b ph) rfl
  all_goals rfl

theorem undrawn_execWriteByte (b : Byte) :
    Result.undrawn (execWriteByte b (s.withDraws n)) = Result.undrawn (execWriteByte b s) := by
  unfold execWriteByte
  rw [State.withDraws_call]
  rcases s.call with _ | _ | ⟨b', ph⟩ | _ | _ | _
  case none => exact undrawn_sendPhase s n _ _ b .POLL
  case some.writeByte => exact Result.undrawn_ite (undrawn_sendPhase s n _ _ b ph) rfl
  all_goals rfl

theorem undrawn_execReadByte (h : s.call = some (.readByte .ACT) → s.rxFifo ≠ []) :
    Result.undrawn (execReadByte (s.withDraws n)) = Result.undrawn (execReadByte s) := by
  unfold execReadByte
  rw [State.withDraws_call]
  rcases hc : s.call with _ | _ | _ | ph | _ | _
  case none => exact undrawn_receivePhase s n .POLL nofun
  case some.readByte => exact undrawn_receivePhase s n ph fun hph => h (hph ▸ hc)
  all_goals rfl

theorem undrawn_execWriteBytes (bytes : List Byte) :
    Result.undrawn (execWriteBytes bytes (s.withDraws n)) = Result.undrawn (execWriteBytes bytes s) := by
  unfold execWriteBytes
  rw [State.withDraws_call]
  rcases s.call with _ | _ | _ | _ | ⟨bytes', k, ph⟩ | _
  case none => exact undrawn_sendSequence s n bytes _ 0 .POLL
  case some.writeBytes => exact Result.undrawn_ite (undrawn_sendSequence s n bytes _ k ph) rfl
  all_goals rfl

theorem undrawn_execWriteStr (text : List Char) :
    Result.undrawn (execWriteStr text (s.withDraws n)) = Result.undrawn (execWriteStr text s) := by
  unfold execWriteStr
  rw [State.withDraws_call]
  rcases s.call with _ | _ | _ | _ | _ | ⟨text', k, ph⟩
  case none => exact undrawn_sendSequence s n (s.params.encode text) _ 0 .POLL
  case some.writeStr => exact Result.undrawn_ite (undrawn_sendSequence s n (s.params.encode text) _ k ph) rfl
  all_goals rfl

theorem undrawn_execTxDone :
    Result.undrawn (execTxDone (s.withDraws n)) = Result.undrawn (execTxDone s) := by
  unfold execTxDone
  rw [State.withDraws_txShift]
  cases s.txShift <;> rfl

end

/-- Settles O58: register and hardware operations test no free value and store none; the one that a driver operation
could return is ruled out by R156. -/
theorem drawsShowOnlyInReads : Obligations.DrawsShowOnlyInReads := by
  unfold Obligations.DrawsShowOnlyInReads
  intro i s n h
  change Result.undrawn (exec i (s.withDraws n)) = Result.undrawn (exec i s)
  cases i with
  | rdDr | rdFr | rdIbrd | rdFbrd | rdLcrh | rdCr | rdIfls | rdImsc | rdRis | rdMis | rdIcr =>
    exact State.undrawn_withBase s n rfl
  | wrFr | wrIbrd | wrFbrd | wrCr | wrIfls | wrImsc | wrRis | wrMis | wrIcr =>
    exact State.undrawn_withBase s n rfl
  | wrDr v => exact State.undrawn_withBase s n (State.undrawn_writeDr s n v)
  | wrLcrh v => exact State.undrawn_withBase s n (State.undrawn_writeLcrh s n v)
  | rdReserved | wrReserved | bind | modemChange | reset => rfl
  | bauddiv => exact Result.undrawn_ite rfl rfl
  | init c b => exact undrawn_execInit s n c b
  | writeByte b => exact undrawn_execWriteByte s n b
  | readByte => exact undrawn_execReadByte s n h.read_byte
  | writeBytes bytes => exact undrawn_execWriteBytes s n bytes
  | writeStr text => exact undrawn_execWriteStr s n text
  | txLoad => exact Result.undrawn_ite (Result.undrawn_ite rfl rfl) rfl
  | txDone => exact undrawn_execTxDone s n
  | rxArrive => exact Result.undrawn_ite (Result.undrawn_ite (Result.undrawn_ite rfl rfl) rfl) rfl

end Sys2Proof.Machine
end

section
/-! The register accesses one by one (spec/40_register_access.md R90 to R110), on a good BASE: each access is its
operation on the registers and queues, whose outcomes are told apart here by their guards. -/

namespace Sys2Proof.Machine

/-! ## The flags, and the tests of a write of LCR_H, as propositions -/

theorem State.busy_iff {s : State} : s.busy = true ↔ 0 < s.txFifo.length ∨ s.txShift ≠ none := by
  simp [State.busy, Option.isSome_iff_ne_none]

theorem State.txff_iff {s : State} : s.txff = true ↔ s.txFifo.length = s.txCap := beq_iff_eq

theorem State.rxff_iff {s : State} : s.rxff = true ↔ s.rxFifo.length = s.rxCap := beq_iff_eq

theorem State.txfe_iff {s : State} : s.txfe = true ↔ s.txFifo.length = 0 := beq_iff_eq

theorem State.rxfe_iff {s : State} : s.rxfe = true ↔ s.rxFifo.length = 0 := beq_iff_eq

theorem State.fenChangeBlocked_iff {s : State} {new : Word} :
    s.fenChangeBlocked new = true ↔ lcrhFen s.params.layout new ≠ lcrhFen s.params.layout s.lcrh ∧
      (0 < s.txFifo.length ∨ 0 < s.rxFifo.length) := by
  simp [State.fenChangeBlocked]

theorem State.lineControlChanges_iff {s : State} {new : Word} :
    s.lineControlChanges new = true ↔ new ≠ s.lcrh ∨ s.cellDivisor ≠ s.baudLatch := by
  simp [State.lineControlChanges]

/-! ## The Flag register -/

/-- Settles O18: the word read has the flags of the state at their positions. -/
theorem flagReadIsDerived : Obligations.FlagReadIsDerived := by
  unfold Obligations.FlagReadIsDerived
  refine ⟨fun s hL hb => ⟨s.readFr, State.withBase_of_baseOk hb, rfl, ?_⟩, rfl, rfl⟩
  obtain ⟨-, -, -, busy, rxfe, txff, rxff, txfe, -, zero⟩ := FlagReg.word_bits hL s.flagReg
  rw [State.readFr_readData, busy, rxfe, txff, rxff, txfe]
  exact ⟨State.busy_iff, State.rxfe_iff, State.txff_iff, State.rxff_iff, State.txfe_iff, zero⟩

/-! ## The storage cells -/

/-- Above its effective width a cell that fits reads as zero (R23). -/
theorem getLsbD_eq_false_of_fits {v : Word} {width : Nat} (h : v.toNat < 2 ^ width) (k : Nat) (hk : width ≤ k) :
    v.getLsbD k = false :=
  Nat.testBit_eq_false_of_lt (h.trans_le (Nat.pow_le_pow_right Nat.two_pos hk))

/-- Settles O9: a read returns the cell, and the cell fits its width. -/
theorem configurationReads : Obligations.ConfigurationReads := by
  unfold Obligations.ConfigurationReads
  refine ⟨fun s hb => ?_, fun s h => ?_, rfl, rfl, rfl, rfl⟩
  · exact ⟨State.withBase_of_baseOk hb, State.withBase_of_baseOk hb, State.withBase_of_baseOk hb,
      State.withBase_of_baseOk hb⟩
  · have fits := h.fits
    exact ⟨getLsbD_eq_false_of_fits fits.ibrd_lt, getLsbD_eq_false_of_fits fits.fbrd_lt,
      getLsbD_eq_false_of_fits fits.lcrh_lt, getLsbD_eq_false_of_fits fits.cr_lt⟩

/-- Settles O10: a write stores the operand truncated to the width of its cell. -/
theorem configurationWrites : Obligations.ConfigurationWrites := by
  unfold Obligations.ConfigurationWrites
  refine ⟨fun s v hb => ?_, rfl, rfl, rfl, fun v => ⟨rfl, rfl, rfl⟩⟩
  exact ⟨State.withBase_of_baseOk hb, State.withBase_of_baseOk hb, State.withBase_of_baseOk hb⟩

/-- Settles O11: reads and writes of IFLS and IMSC are those of a cell. -/
theorem interruptStorage : Obligations.InterruptStorage := by
  unfold Obligations.InterruptStorage
  refine ⟨fun s v hb => ?_, fun s h => ?_, rfl, rfl, rfl, rfl, fun v => ⟨rfl, rfl⟩⟩
  · exact ⟨State.withBase_of_baseOk hb, State.withBase_of_baseOk hb, State.withBase_of_baseOk hb,
      State.withBase_of_baseOk hb⟩
  · exact ⟨getLsbD_eq_false_of_fits h.fits.ifls_lt, getLsbD_eq_false_of_fits h.fits.imsc_lt⟩

/-- Settles O13: these writes go through BASE and do nothing behind it. -/
theorem ignoredWrites : Obligations.IgnoredWrites := by
  unfold Obligations.IgnoredWrites
  refine ⟨fun s v hb => ?_, fun v => ⟨rfl, rfl, rfl, rfl⟩⟩
  exact ⟨State.withBase_of_baseOk hb, State.withBase_of_baseOk hb, State.withBase_of_baseOk hb,
    State.withBase_of_baseOk hb⟩

/-! ## The interrupt status registers -/

/-- `draw(11)` stays in the effective bits (R106). -/
theorem State.lt_of_getLsbD_interruptDraw {s : State} {k : Nat} (h : s.interruptDraw.getLsbD k = true) :
    k < s.params.layout.width.imsc :=
  lt_of_getLsbD_trunc h

/-- Settles O14: RIS is a truncated free value, MIS that value masked by IMSC. -/
theorem statusReads : Obligations.StatusReads := by
  unfold Obligations.StatusReads
  refine ⟨fun s hb => ⟨_, State.withBase_of_baseOk hb, rfl, fun k => State.lt_of_getLsbD_interruptDraw⟩,
    fun s hb => ⟨_, State.withBase_of_baseOk hb, rfl, fun k hk => ?_, fun h0 => ?_⟩,
    fun s hb => ⟨_, State.withBase_of_baseOk hb, rfl⟩, rfl, rfl, rfl, rfl⟩
  · rw [State.spend_readData, State.returning_readData, BitVec.getLsbD_and, Bool.and_eq_true] at hk
    exact ⟨State.lt_of_getLsbD_interruptDraw hk.1, hk.2⟩
  · rw [State.spend_readData, State.returning_readData, h0, BitVec.and_zero]

/-! ## The Data register -/

/-- Settles O16: the word read is the oldest byte with its error bits, or free values at the same positions. -/
theorem dataReadPopsOldest : Obligations.DataReadPopsOldest := by
  unfold Obligations.DataReadPopsOldest
  refine ⟨fun s d rest hL hb hq => ?_, fun s hb hq => ?_, rfl, rfl⟩
  · have popped : s.readDr.rxFifo = rest := by rw [State.readDr_rxFifo, hq, List.tail_cons]
    refine ⟨s.readDr, State.withBase_of_baseOk hb, by rw [← popped]; rfl, ?_,
      fun k => DataReg.word_zero s.dataReg, ?_, fun hfull => ?_⟩
    · rw [State.readDr_readData, DataReg.setWidth_word hL, State.dataReg_cons hq]
    · rw [State.rxfe_iff, popped, List.length_eq_zero_iff]
    · have full : rest.length + 1 = s.rxCap := by rw [← State.rxff_iff.mp hfull, hq, List.length_cons]
      rw [Bool.eq_false_iff, ne_eq, State.rxff_iff, popped]
      show rest.length ≠ s.rxCap
      omega
  · have none_popped : s.readDr.rxFifo = s.rxFifo := by rw [State.readDr_rxFifo, hq, List.tail_nil]
    exact ⟨s.readDr, State.withBase_of_baseOk hb, by rw [← none_popped]; rfl, fun k => DataReg.word_zero s.dataReg⟩

theorem State.writeDr_of_full {s : State} {v : Word} (full : ¬ s.txFifo.length < s.txCap) :
    s.writeDr v = .refused .txOverflow :=
  if_neg full

/-- Settles O17: a write pushes at the end of a FIFO with room, and that FIFO is not empty afterwards. -/
theorem dataWritePushesByte : Obligations.DataWritePushesByte := by
  unfold Obligations.DataWritePushesByte
  intro s v hb cap
  refine ⟨fun room => ?_, fun full => ?_, rfl⟩
  · refine ⟨_, (State.withBase_of_baseOk hb).trans (State.writeDr_eq_next.mpr ⟨room, rfl⟩), rfl, ?_, ?_, ?_⟩
    · simp [State.txfe]
    · simp [State.busy]
    · rw [State.txff_iff, List.length_append]; rfl
  · exact (State.withBase_of_baseOk hb).trans (State.writeDr_of_full full)

/-! ## The Line Control register -/

theorem State.writeLcrh_of_fenBlocked {s : State} {v : Word}
    (blocked : s.fenChangeBlocked (lcrhOperand s.params.layout v) = true) :
    s.writeLcrh v = .refused .fenChangeNonempty :=
  if_pos blocked

theorem State.writeLcrh_of_inFlight {s : State} {v : Word}
    (unblocked : ¬ s.fenChangeBlocked (lcrhOperand s.params.layout v) = true)
    (changes : s.lineControlChanges (lcrhOperand s.params.layout v) = true) (shifting : s.txShift ≠ none) :
    s.writeLcrh v = .refused .reconfigInFlight :=
  (if_neg unblocked).trans (if_pos (by simp [changes, Option.isSome_iff_ne_none, shifting]))

theorem State.writeLcrh_of_admitted {s : State} {v : Word}
    (unblocked : ¬ s.fenChangeBlocked (lcrhOperand s.params.layout v) = true)
    (quiet : ¬ (s.lineControlChanges (lcrhOperand s.params.layout v) = true ∧ s.txShift ≠ none)) :
    s.writeLcrh v = .next (s.loadLcrh v) :=
  State.writeLcrh_eq_next.mpr ⟨Bool.eq_false_iff.mpr unblocked,
    by rwa [Bool.eq_false_iff, ne_eq, Bool.and_eq_true, Option.isSome_iff_ne_none], rfl⟩

/-- A write that changes FEN answers with empty queues only, and a capacity is never 0 (R99, R28). -/
theorem State.loadLcrh_not_full {s : State} {v : Word}
    (unblocked : s.fenChangeBlocked (lcrhOperand s.params.layout v) = false)
    (fen : lcrhFen s.params.layout (lcrhOperand s.params.layout v) ≠ lcrhFen s.params.layout s.lcrh)
    (htx : 1 ≤ s.params.txDepth) (hrx : 1 ≤ s.params.rxDepth) :
    (s.loadLcrh v).txff = false ∧ (s.loadLcrh v).rxff = false := by
  obtain ⟨txEmpty, rxEmpty⟩ := (State.fenChangeBlocked_eq_false unblocked).resolve_left fen
  have txPos : 1 ≤ (s.loadLcrh v).txCap := State.txCap_pos htx
  have rxPos : 1 ≤ (s.loadLcrh v).rxCap := State.rxCap_pos hrx
  rw [Bool.eq_false_iff, Bool.eq_false_iff, ne_eq, ne_eq, State.txff_iff, State.rxff_iff,
    show (s.loadLcrh v).txFifo = [] from txEmpty, show (s.loadLcrh v).rxFifo = [] from rxEmpty, List.length_nil]
  exact ⟨by omega, by omega⟩

/-- Settles O19: the two tests of R99 in their order, then the load of the cell and the latch. -/
theorem lineControlWrite : Obligations.LineControlWrite := by
  unfold Obligations.LineControlWrite
  refine ⟨?_, rfl, rfl, fun v => rfl⟩
  intro s v hb fen new fenBlocked changes
  have blocked_iff : s.fenChangeBlocked (lcrhOperand s.params.layout v) = true ↔ fenBlocked :=
    State.fenChangeBlocked_iff
  have changes_iff : s.lineControlChanges (lcrhOperand s.params.layout v) = true ↔ changes :=
    State.lineControlChanges_iff
  rw [← blocked_iff, ← changes_iff]
  refine ⟨fun blocked => ?_, fun unblocked ⟨changed, shifting⟩ => ?_, fun unblocked quiet => ?_⟩
  · exact (State.withBase_of_baseOk hb).trans (State.writeLcrh_of_fenBlocked blocked)
  · exact (State.withBase_of_baseOk hb).trans (State.writeLcrh_of_inFlight unblocked changed shifting)
  · exact ⟨_, (State.withBase_of_baseOk hb).trans (State.writeLcrh_of_admitted unblocked quiet), rfl,
      State.loadLcrh_not_full (Bool.eq_false_iff.mpr unblocked)⟩

/-- Settles O20: such a write changes nothing, so neither test of R99 holds. -/
theorem sameLineControlAccepted : Obligations.SameLineControlAccepted := by
  unfold Obligations.SameLineControlAccepted
  intro s v hb held sameInt sameFrac
  have operand : lcrhOperand s.params.layout v = s.lcrh := BitVec.eq_of_toNat_eq ((toNat_trunc _ v).trans held)
  have divisor : s.cellDivisor = s.baudLatch := by rw [State.cellDivisor, ← sameInt, ← sameFrac]
  exact (State.withBase_of_baseOk hb).trans (State.writeLcrh_same operand divisor)

end Sys2Proof.Machine
end

section
/-! The divisor calculator (spec/41_baud_divisor.md R130 to R137). Everything about the rounded fraction follows from
two facts: it is a nearest integer to `8r / 2B` under both tie rules, and on an exact tie each rule takes its neighbour. -/

namespace Sys2Proof.Machine

/-! ## The rounded fraction: a nearest integer, and its value on a tie -/

theorem roundFraction_halfUp (r b : Nat) : roundFraction .halfUp r b = (8 * r + b) / (2 * b) := rfl

/-- The rounded fraction differs from `8r / 2B` by at most 1/2, whatever the tie rule is (R132). -/
theorem roundFraction_nearest (tie : TieRule) (r : Nat) {b : Nat} (hb : 1 ≤ b) :
    2 * b * roundFraction tie r b ≤ 8 * r + b ∧ 8 * r ≤ 2 * b * roundFraction tie r b + b := by
  cases tie with
  | halfUp =>
    have division := Nat.div_add_mod (8 * r + b) (2 * b)
    have remainder := Nat.mod_lt (8 * r + b) (by omega : 2 * b > 0)
    rw [roundFraction_halfUp]
    omega
  | halfEven =>
    have division := Nat.div_add_mod (8 * r) (2 * b)
    have remainder := Nat.mod_lt (8 * r) (by omega : 2 * b > 0)
    simp only [roundFraction]
    split
    · omega
    · split
      · rw [mul_add]; omega
      · obtain even | odd := Nat.mod_two_eq_zero_or_one (8 * r / (2 * b))
        · rw [even, add_zero]; omega
        · rw [odd, mul_add]; omega

/-- An integer less than 1/2 away is the only nearest one, so the tie rule does not matter there (R132). -/
theorem roundFraction_eq_of_near (tie : TieRule) {r b m : Nat} (above : 2 * b * m < 8 * r + b)
    (below : 8 * r < 2 * b * m + b) : roundFraction tie r b = m := by
  obtain ⟨low, high⟩ := roundFraction_nearest tie r (by omega : 1 ≤ b)
  have : roundFraction tie r b < m + 1 := Nat.lt_of_mul_lt_mul_left (a := 2 * b) (by rw [mul_add]; omega)
  have : m < roundFraction tie r b + 1 := Nat.lt_of_mul_lt_mul_left (a := 2 * b) (by rw [mul_add]; omega)
  omega

theorem roundFraction_halfUp_of_tie {r b m : Nat} (hb : 1 ≤ b) (exact_tie : 8 * r = (2 * m + 1) * b) :
    roundFraction .halfUp r b = m + 1 := by
  have sum : 8 * r + b = (m + 1) * (2 * b) := by rw [exact_tie]; ring
  rw [roundFraction_halfUp, sum]
  exact Nat.mul_div_cancel _ (by omega)

theorem roundFraction_halfEven_of_tie {r b m : Nat} (hb : 1 ≤ b) (exact_tie : 8 * r = (2 * m + 1) * b) :
    roundFraction .halfEven r b = m + m % 2 := by
  have expanded : 8 * r = b + 2 * b * m := by rw [exact_tie]; ring
  have quotient : 8 * r / (2 * b) = m := by
    rw [expanded, Nat.add_mul_div_left _ _ (by omega), Nat.div_eq_of_lt (by omega), zero_add]
  have remainder : 8 * r % (2 * b) = b := by rw [expanded, Nat.add_mul_mod_self_left, Nat.mod_eq_of_lt (by omega)]
  simp [roundFraction, quotient, remainder]

/-- Off the ties the half-up fraction is less than 1/2 away, so half-even agrees with it. -/
theorem roundFraction_halfUp_eq_halfEven {r b : Nat} (hb : 1 ≤ b)
    (no_tie : ¬ ∃ m, 8 * r = (2 * m + 1) * b) : roundFraction .halfUp r b = roundFraction .halfEven r b := by
  obtain ⟨low, high⟩ := roundFraction_nearest .halfUp r hb
  generalize roundFraction .halfUp r b = f at low high
  have above : 2 * b * f ≠ 8 * r + b := by
    intro tie
    obtain _ | f := f
    · omega
    · exact no_tie ⟨f, Nat.add_right_cancel (m := b) (by rw [← tie]; ring)⟩
  have below : 8 * r ≠ 2 * b * f + b := fun tie => no_tie ⟨f, by rw [tie]; ring⟩
  exact (roundFraction_eq_of_near .halfEven (by omega) (by omega)).symm

/-- Settles O27: off the ties the nearest integer is unique, and on a tie each rule's value is computed. -/
theorem tieRulesDifferOnlyOnTies : Obligations.TieRulesDifferOnlyOnTies := by
  unfold Obligations.TieRulesDifferOnlyOnTies
  refine fun r b hb => ⟨roundFraction_halfUp_eq_halfEven hb, fun m exact_tie =>
    ⟨roundFraction_halfUp_of_tie hb exact_tie, (roundFraction_halfEven_of_tie hb exact_tie).trans ?_⟩⟩
  split <;> omega

/-! ## The missing carry -/

/-- A remainder below `16 B` rounds to 64 from `127 B / 8` on; the tie there goes to 64 under both rules, 63 being odd
(R133). -/
theorem roundFraction_eq_64_iff (tie : TieRule) {r b : Nat} (hb : 1 ≤ b) (hr : r < 16 * b) :
    roundFraction tie r b = 64 ↔ 127 * b ≤ 8 * r := by
  refine ⟨fun carry => ?_, fun large => ?_⟩
  · have nearest := (roundFraction_nearest tie r hb).1
    rw [carry] at nearest
    omega
  · obtain exact_tie | above := large.eq_or_lt
    · have exact_tie : 8 * r = (2 * 63 + 1) * b := exact_tie.symm
      cases tie with
      | halfUp => exact roundFraction_halfUp_of_tie hb exact_tie
      | halfEven => exact roundFraction_halfEven_of_tie hb exact_tie
    · exact roundFraction_eq_of_near tie (by omega) (by omega)

theorem baudDivisor_of_carry {tie : TieRule} {c b : Nat} (carry : roundFraction tie (c % (16 * b)) b = 64) :
    baudDivisor tie c b = ⟨c / (16 * b), 0⟩ := by
  simp [baudDivisor, carry]

/-- Settles O26: both tie rules round to 64 from the threshold on, and 64 is 0 in 6 bits. -/
theorem bauddivDropsCarry : Obligations.BauddivDropsCarry := by
  unfold Obligations.BauddivDropsCarry
  intro c b hb r
  have hr : r < 16 * b := Nat.mod_lt c (by omega)
  have carry_iff (tie : TieRule) : roundFraction tie r b = 64 ↔ 127 * (16 * b) ≤ 128 * r :=
    (roundFraction_eq_64_iff tie hb hr).trans (by omega)
  exact ⟨carry_iff .halfUp, fun large => ⟨by omega, baudDivisor_of_carry ((carry_iff .halfUp).mpr large),
    baudDivisor_of_carry ((carry_iff .halfEven).mpr large)⟩⟩

/-! ## The divisor over the rationals -/

/-- `D = q + r / 16B` (R131). -/
theorem quotient_eq_div_add_mod_div (c : Nat) {b : Nat} (hb : 1 ≤ b) :
    (c : ℚ) / (16 * b) = (c / (16 * b) : ℕ) + (c % (16 * b) : ℕ) / (16 * b) := by
  have positive : (0 : ℚ) < 16 * b := by positivity
  have division : ((16 * b * (c / (16 * b)) + c % (16 * b) : ℕ) : ℚ) = c := congrArg _ (Nat.div_add_mod c (16 * b))
  push_cast at division
  rw [← mul_right_inj' positive.ne', mul_add, mul_div_cancel₀ _ positive.ne', mul_div_cancel₀ _ positive.ne',
    division]

theorem floor_quotient (c b : Nat) : ⌊(c : ℚ) / (16 * b)⌋ = (c / (16 * b) : ℕ) :=
  mod_cast Rat.floor_natCast_div_natCast c (16 * b)

/-- Settles O24: with `D = q + r / 16B`, `64 (D - q) + 1/2` is `(8r + B) / 2B`, the division half-up makes. -/
theorem bauddivIsRoundedQuotient : Obligations.BauddivIsRoundedQuotient := by
  unfold Obligations.BauddivIsRoundedQuotient
  intro c b hb D
  have positive : (0 : ℚ) < b := by exact_mod_cast hb
  have floor_eq : ⌊D⌋ = (c / (16 * b) : ℕ) := floor_quotient c b
  have scaled : 64 * (D - (⌊D⌋ : ℚ)) + 1 / 2 = ((8 * (c % (16 * b)) + b : ℕ) : ℚ) / ((2 * b : ℕ) : ℚ) := by
    rw [floor_eq, Int.cast_natCast, show D = _ from quotient_eq_div_add_mod_div c hb, add_sub_cancel_left]
    push_cast
    field_simp
    ring
  refine ⟨floor_eq.symm, ?_⟩
  rw [scaled, Rat.floor_natCast_div_natCast]
  simp [baudDivisor, roundFraction_halfUp]

theorem roundFraction_zero (tie : TieRule) {b : Nat} (hb : 1 ≤ b) : roundFraction tie 0 b = 0 :=
  roundFraction_eq_of_near tie (by omega) (by omega)

/-- The rounded fraction is within 1/2 of `64 r / 16B`, so its 64th part within 1/128 of `r / 16B` (R137 e). -/
theorem abs_roundFraction_sub_le (tie : TieRule) (r : Nat) {b : Nat} (hb : 1 ≤ b) :
    |(roundFraction tie r b : ℚ) / 64 - r / (16 * b)| ≤ 1 / 128 := by
  have positive : (0 : ℚ) < b := by exact_mod_cast hb
  obtain ⟨low, high⟩ := roundFraction_nearest tie r hb
  have low : 2 * b * (roundFraction tie r b : ℚ) ≤ 8 * r + b := by exact_mod_cast low
  have high : 8 * (r : ℚ) ≤ 2 * b * roundFraction tie r b + b := by exact_mod_cast high
  have common : (roundFraction tie r b : ℚ) / 64 - r / (16 * b) =
      (2 * b * roundFraction tie r b - 8 * r) / (128 * b) := by
    field_simp
    ring
  rw [common, abs_le, le_div_iff₀ (by positivity), div_le_iff₀ (by positivity)]
  constructor <;> linarith

/-- Settles O25: the laws of R137, from the division, the nearest integer, and the threshold of the carry. -/
theorem bauddivLaws : Obligations.BauddivLaws := by
  unfold Obligations.BauddivLaws
  intro tie c b hb d D programmed
  have positive : 0 < 16 * b := by omega
  have remainder : c % (16 * b) < 16 * b := Nat.mod_lt c positive
  have quotient : D = (c / (16 * b) : ℕ) + (c % (16 * b) : ℕ) / (16 * b) := quotient_eq_div_add_mod_div c hb
  refine ⟨Nat.le_of_lt_succ (Nat.mod_lt _ (by omega)), Nat.div_mul_le_self c _,
    (Nat.div_lt_iff_lt_mul positive).mp (Nat.lt_succ_self _), ?_, ?_, ?_⟩
  · intro multiple
    have zero : d.frac = roundFraction tie (c % (16 * b)) b % 64 := rfl
    rw [zero, Nat.mod_eq_zero_of_dvd multiple, roundFraction_zero tie hb]
    exact ⟨rfl, rfl⟩
  · intro below
    have frac : d.frac = roundFraction tie (c % (16 * b)) b := Nat.mod_eq_of_lt below
    have difference : programmed - D =
        (roundFraction tie (c % (16 * b)) b : ℚ) / 64 - (c % (16 * b) : ℕ) / (16 * b) := by
      rw [quotient, ← frac]
      exact add_sub_add_left_eq_sub _ _ _
    rw [difference]
    exact abs_roundFraction_sub_le tie _ hb
  · intro carry
    have large : 127 * b ≤ 8 * (c % (16 * b)) := (roundFraction_eq_64_iff tie hb remainder).mp carry
    have lost : D - programmed = (c % (16 * b) : ℕ) / (16 * b) := by
      have dropped : d = ⟨c / (16 * b), 0⟩ := baudDivisor_of_carry carry
      simp [programmed, dropped, quotient]
    have large : 127 * (b : ℚ) ≤ 8 * (c % (16 * b) : ℕ) := by exact_mod_cast large
    have remainder : ((c % (16 * b) : ℕ) : ℚ) < 16 * b := by exact_mod_cast remainder
    have positive : (0 : ℚ) < 16 * b := by exact_mod_cast positive
    rw [lost, le_div_iff₀ positive, div_lt_one positive]
    exact ⟨by linarith, remainder⟩

/-! ## The operation BAUDDIV -/

theorem exec_bauddiv_of_rate {s : State} {c b : Nat} (rate : s.params.baud b ≠ 0) :
    exec (.bauddiv c b) s = .next { s with divisor := s.params.divisor c b } :=
  if_neg rate

theorem exec_bauddiv_of_zero {s : State} {c b : Nat} (zero : s.params.baud b = 0) :
    exec (.bauddiv c b) s = .refused .zeroBaud :=
  if_pos zero

theorem baudDivisor_halfUp (c b : Nat) :
    baudDivisor .halfUp c b = ⟨c / (16 * b), (8 * (c % (16 * b)) + b) / (2 * b) % 64⟩ :=
  rfl

/-- Settles O23: BAUDDIV's one test is the zero rate (R135), and half-up's divisor is the formula of R131. -/
theorem bauddivReturnsParts : Obligations.BauddivReturnsParts := by
  unfold Obligations.BauddivReturnsParts
  refine ⟨?_, rfl, rfl⟩
  intro s c b C B
  refine ⟨exec_bauddiv_of_rate, fun rate halfUp => ?_, exec_bauddiv_of_zero⟩
  rw [exec_bauddiv_of_rate rate, Params.divisor, halfUp, baudDivisor_halfUp]
  rfl

end Sys2Proof.Machine
end

section
/-! The words of the worked examples (spec/42_initialize.md R148, spec/95_test_vectors.md A1, A13, A19). -/

namespace Sys2Proof

/-- Settles O3: each word is the encoding of its operation, which decoding inverts; the last one is not aligned. -/
theorem workedWordsDecode : Obligations.WorkedWordsDecode := by
  unfold Obligations.WorkedWordsDecode
  have worked {i : Instr} {t : Transaction} (hi : i.wf Layout.default = true)
      (ht : encode Layout.default i = some t) : decode Layout.default t = .ok i :=
    decode_encode Layout.default_wf hi ht
  exact ⟨worked rfl rfl, worked rfl rfl, worked rfl rfl, worked rfl rfl, worked rfl rfl, worked rfl rfl,
    worked rfl rfl, rfl⟩

end Sys2Proof
end

section
/-! The phases of INIT (spec/42_initialize.md R140 to R143, R147): each is one write, and only the write of LCR_H can be
refused on a good BASE. -/

namespace Sys2Proof.Machine

/-! ## The words INIT writes (R72, R73, R136) -/

/-- Truncating a word to at most its own width truncates the number it was made from. -/
theorem trunc_ofNat {n : Nat} (hn : n ≤ 32) (x : Nat) :
    trunc n (BitVec.ofNat 32 x) = BitVec.ofNat 32 (x % 2 ^ n) := by
  rw [trunc, BitVec.toNat_ofNat, Nat.mod_mod_of_dvd _ (Nat.pow_dvd_pow 2 hn)]

/-- What INIT leaves in IBRD: the integer part in the effective bits of the cell (R136). -/
def Params.initIbrd (p : Params) (c b : Nat) : Word :=
  BitVec.ofNat 32 ((p.divisor c b).int % 2 ^ p.layout.width.ibrd)

/-- What INIT leaves in FBRD. -/
def Params.initFbrd (p : Params) (c b : Nat) : Word :=
  BitVec.ofNat 32 ((p.divisor c b).frac % 2 ^ p.layout.width.fbrd)

theorem ibrdOperand_intOperand {p : Params} (h : p.layout.wf = true) (c b : Nat) :
    ibrdOperand p.layout (p.divisor c b).intOperand = p.initIbrd c b :=
  trunc_ofNat (Layout.width_le h (by simp)) _

theorem fbrdOperand_fracOperand {p : Params} (h : p.layout.wf = true) (c b : Nat) :
    fbrdOperand p.layout (p.divisor c b).fracOperand = p.initFbrd c b :=
  trunc_ofNat (Layout.width_le h (by simp)) _

/-- The bits of `LCRH_INIT`: FEN and the code of 8-bit words (R72). -/
theorem getLsbD_lcrhInit_iff {L : Layout} (h : L.wf = true) (k : Nat) :
    (lcrhInit L).getLsbD k = true ↔
      k = L.lcrh.fen ∨ (k = L.lcrh.wlen ∧ L.lcrh.wlen8.getLsbD 0 = true) ∨
        (k = L.lcrh.wlen + 1 ∧ L.lcrh.wlen8.getLsbD 1 = true) := by
  have hlt := (Layout.lcrh_bits h).2
  have hw : L.width.lcrh ≤ 32 := Layout.width_le h (by simp)
  simp only [LcrhBits.list, List.mem_cons, List.not_mem_nil, or_false, forall_eq_or_imp, forall_eq] at hlt
  rw [getLsbD_lcrhInit]
  simp only [Bool.and_eq_true, Bool.or_eq_true, decide_eq_true_eq]
  constructor
  · rintro ⟨-, ⟨above, set⟩ | fen⟩
    · have inside : k - L.lcrh.wlen < 2 := BitVec.lt_of_getLsbD set
      obtain rfl | rfl : k = L.lcrh.wlen ∨ k = L.lcrh.wlen + 1 := by omega
      · rw [Nat.sub_self] at set; exact .inr (.inl ⟨rfl, set⟩)
      · rw [Nat.add_sub_cancel_left] at set; exact .inr (.inr ⟨rfl, set⟩)
    · exact .inl fen
  · rintro (rfl | ⟨rfl, set⟩ | ⟨rfl, set⟩)
    · exact ⟨by omega, .inr rfl⟩
    · exact ⟨by omega, .inl ⟨Nat.le_refl _, by rwa [Nat.sub_self]⟩⟩
    · exact ⟨by omega, .inl ⟨Nat.le_succ _, by rwa [Nat.add_sub_cancel_left]⟩⟩

/-- The bits of `CR_INIT`: UARTEN, TXE and RXE (R73). -/
theorem getLsbD_crInit_iff {L : Layout} (h : L.wf = true) (k : Nat) :
    (crInit L).getLsbD k = true ↔ k = L.cr.uarten ∨ k = L.cr.txe ∨ k = L.cr.rxe := by
  have hlt := (Layout.cr_bits h).2
  have hw : L.width.cr ≤ 32 := Layout.width_le h (by simp)
  simp only [CrBits.list, List.mem_cons, List.not_mem_nil, or_false, forall_eq_or_imp, forall_eq] at hlt
  rw [getLsbD_crInit]
  simp only [Bool.and_eq_true, Bool.or_eq_true, decide_eq_true_eq, or_assoc]
  exact and_iff_right_of_imp (by omega)

/-! ## The write of phase I2 (R99, R147, R213) -/

/-- INIT sets FEN, so a byte queued blocks its write of LCR_H exactly when FEN is clear (R213). -/
theorem State.fenChangeBlocked_lcrhInit {s : State} (hL : s.params.layout.wf = true) :
    s.fenChangeBlocked (lcrhInit s.params.layout) = true ↔
      s.lcrh.getLsbD s.params.layout.lcrh.fen = false ∧ (s.txFifo ≠ [] ∨ s.rxFifo ≠ []) := by
  rw [State.fenChangeBlocked_iff, lcrhFen_lcrhInit hL, List.length_pos_iff, List.length_pos_iff, lcrhFen,
    ne_comm, ne_eq, Bool.not_eq_true]

theorem State.lineControlChanges_lcrhInit {s : State} :
    s.lineControlChanges (lcrhInit s.params.layout) = true ↔
      s.lcrh ≠ lcrhInit s.params.layout ∨ s.baudLatch ≠ s.cellDivisor := by
  rw [State.lineControlChanges_iff, ne_comm, ne_comm (a := s.cellDivisor)]

/-- Neither refusal of R99 meets the write of `LCRH_INIT`. -/
def State.AdmitsLcrhInit (s : State) : Prop :=
  (s.lcrh.getLsbD s.params.layout.lcrh.fen = true ∨ (s.txFifo = [] ∧ s.rxFifo = [])) ∧
    (s.txShift = none ∨ (s.lcrh = lcrhInit s.params.layout ∧ s.baudLatch = s.cellDivisor))

theorem State.writeLcrh_lcrhInit_eq_next {s t : State} (hL : s.params.layout.wf = true) :
    s.writeLcrh (lcrhInit s.params.layout) = .next t ↔
      s.AdmitsLcrhInit ∧ t = { s with lcrh := lcrhInit s.params.layout, baudLatch := s.cellDivisor } := by
  rw [State.writeLcrh_eq_next, lcrhOperand_lcrhInit hL, ← and_assoc]
  refine and_congr_left fun _ => and_congr ?_ ?_
  · rw [Bool.eq_false_iff, ne_eq, State.fenChangeBlocked_lcrhInit hL]
    cases s.lcrh.getLsbD s.params.layout.lcrh.fen <;> simp
  · rw [Bool.eq_false_iff, ne_eq, Bool.and_eq_true, State.lineControlChanges_lcrhInit, Option.isSome_iff_ne_none]
    tauto

/-! ## One phase -/

/-- The state that a phase of INIT leaves when it answers (R140, R141). -/
def State.afterInitPhase (s : State) (c b : Nat) : InitPhase → State
  | .I0 => { s with ibrd := s.params.initIbrd c b, call := some (.init c b .I1) }
  | .I1 => { s with fbrd := s.params.initFbrd c b, call := some (.init c b .I2) }
  | .I2 => { s with
      lcrh := lcrhInit s.params.layout, baudLatch := s.cellDivisor, call := some (.init c b .I3) }
  | .I3 => { s with cr := crInit s.params.layout, call := none }

/-- A phase answers on a good BASE, unless it is I2 and its write is refused. -/
theorem initPhase_eq_next_iff {c b : Nat} {ph : InitPhase} {s t : State} (hL : s.params.layout.wf = true) :
    initPhase c b ph s = .next t ↔
      s.baseOk = true ∧ (ph = .I2 → s.AdmitsLcrhInit) ∧ t = s.afterInitPhase c b ph := by
  rw [initPhase_eq_next]
  refine and_congr_right fun _ => ?_
  cases ph with
  | I0 => simp [State.writeIbrd, ibrdOperand_intOperand hL, State.setCall, State.afterInitPhase]
  | I1 => simp [State.writeFbrd, fbrdOperand_fracOperand hL, State.setCall, State.afterInitPhase]
  | I2 =>
    simp only [State.writeLcrh_lcrhInit_eq_next hL, forall_const]
    exact ⟨fun ⟨_, ⟨admits, hu⟩, ht⟩ => ⟨admits, ht.trans (hu ▸ rfl)⟩, fun ⟨admits, ht⟩ => ⟨_, ⟨admits, rfl⟩, ht⟩⟩
  | I3 => simp [State.writeCr, crOperand_crInit hL, State.setCall, State.afterInitPhase]

/-- INIT starts when no operation runs: the divisor is recorded and phase I0 runs (R140). -/
theorem exec_init_start_eq_next {c b : Nat} {s t : State} (hL : s.params.layout.wf = true) (hc : s.call = none) :
    exec (.init c b) s = .next t ↔ s.params.baud b ≠ 0 ∧ s.baseOk = true ∧
      t = { s with divisor := s.params.divisor c b }.afterInitPhase c b .I0 := by
  have idle : ¬ ∃ ph, s.call = some (.init c b ph) ∧ initPhase c b ph s = .next t := by simp [hc]
  refine execInit_eq_next.trans (and_congr_right fun _ => ?_)
  rw [or_iff_left idle, and_iff_right hc, initPhase_eq_next_iff (s := { s with divisor := s.params.divisor c b }) hL]
  exact and_congr_right fun _ => and_iff_right nofun

/-- INIT goes on in the phase it is in. -/
theorem exec_init_phase_eq_next {c b : Nat} {ph : InitPhase} {s t : State} (hL : s.params.layout.wf = true)
    (hc : s.call = some (.init c b ph)) :
    exec (.init c b) s = .next t ↔ s.params.baud b ≠ 0 ∧ s.baseOk = true ∧ (ph = .I2 → s.AdmitsLcrhInit) ∧
      t = s.afterInitPhase c b ph := by
  refine execInit_eq_next.trans (and_congr_right fun _ => ?_)
  simp only [hc, reduceCtorEq, false_and, false_or, Option.some.injEq, Call.init.injEq, true_and, exists_eq_left']
  exact initPhase_eq_next_iff hL

theorem exec_init_of_zero {c b : Nat} {s : State} (zero : s.params.baud b = 0) :
    exec (.init c b) s = .refused .zeroBaud :=
  if_pos zero

/-- Settles O28: a zero rate is the first test, and on a good BASE each phase leaves its state. -/
theorem initPhases : Obligations.InitPhases := by
  unfold Obligations.InitPhases
  refine ⟨?_, rfl, rfl⟩
  intro s c b L B d i f
  refine ⟨exec_init_of_zero, fun rate hL hb => ?_⟩
  have phase {ph : InitPhase} (hc : s.call = some (.init c b ph)) (admits : ph = .I2 → s.AdmitsLcrhInit) :
      exec (.init c b) s = .next (s.afterInitPhase c b ph) :=
    (exec_init_phase_eq_next hL hc).mpr ⟨rate, hb, admits, rfl⟩
  exact ⟨fun hc => (exec_init_start_eq_next hL hc).mpr ⟨rate, hb, rfl⟩, fun hc => phase hc nofun,
    fun hc => phase hc nofun, fun hc fen quiet => phase hc fun _ => ⟨fen, quiet⟩, fun hc => phase hc nofun⟩

/-- In phase I2 INIT is its write of LCR_H, the refusals included. -/
theorem exec_init_of_refusedLcrh {c b : Nat} {s : State} {r : Refusal} (rate : s.params.baud b ≠ 0)
    (hb : s.baseOk = true) (hc : s.call = some (.init c b .I2))
    (h : s.writeLcrh (lcrhInit s.params.layout) = .refused r) : exec (.init c b) s = .refused r := by
  simp [exec, execInit, rate, hc, initPhase, State.withBase_of_baseOk hb, h]

/-- Settles O31: the two tests of R99 on the word that INIT writes. -/
theorem initRefusedWhileBusy : Obligations.InitRefusedWhileBusy := by
  unfold Obligations.InitRefusedWhileBusy
  intro s c b L hL rate hb hc
  have operand : lcrhOperand s.params.layout (lcrhInit s.params.layout) = lcrhInit s.params.layout :=
    lcrhOperand_lcrhInit hL
  refine ⟨fun fen queued => ?_, fun unblocked shifting changed => ?_⟩ <;>
    refine exec_init_of_refusedLcrh rate hb hc ?_
  · apply State.writeLcrh_of_fenBlocked
    rw [operand, State.fenChangeBlocked_lcrhInit hL]
    exact ⟨fen, queued⟩
  · refine State.writeLcrh_of_inFlight ?_ ?_ shifting
    · rw [operand, State.fenChangeBlocked_lcrhInit hL]
      rintro ⟨clear, queued⟩
      rcases unblocked with set | ⟨htx, hrx⟩
      · exact Bool.false_ne_true (clear.symm.trans set)
      · exact queued.elim (absurd htx) (absurd hrx)
    · rw [operand, State.lineControlChanges_lcrhInit]
      exact changed

end Sys2Proof.Machine
end

section
/-! Hardware steps between the steps of the software (spec/20_memory.md R51): they move bytes along the line and along
the schedule, and nothing else. -/

namespace Sys2Proof.Machine

/-- `s` is `a` after hardware steps, with the turns `ts` still to come: bytes may have moved on towards the wire, and
bytes may have arrived. -/
structure HardwareSince (a : State) (ts : List Turn) (s : State) : Prop where
  frame : s = { a with
    schedule := ts, txFifo := s.txFifo, rxFifo := s.rxFifo, txShift := s.txShift, wireOut := s.wireOut }
  sent : sentStream s = sentStream a
  tx_suffix : s.txFifo <:+ a.txFifo
  rx_prefix : a.rxFifo <+: s.rxFifo

theorem HardwareSince.refl (a : State) (ts : List Turn) : HardwareSince a ts { a with schedule := ts } :=
  ⟨rfl, rfl, List.suffix_rfl, List.prefix_rfl⟩

theorem HardwareSince.trans {a s t : State} {us ts : List Turn} (h : HardwareSince a us s)
    (h' : HardwareSince s ts t) : HardwareSince a ts t where
  frame := by rw [h'.frame, h.frame]
  sent := h'.sent.trans h.sent
  tx_suffix := h'.tx_suffix.trans h.tx_suffix
  rx_prefix := h.rx_prefix.trans h'.rx_prefix

/-! ## One hardware step -/

theorem hardwareSince_of_txLoad {s t : State} {ts : List Turn}
    (h : exec .txLoad { s with schedule := ts } = .next t) : HardwareSince s ts t := by
  rcases execTxLoad_eq_next.mp h with ⟨-, rfl⟩ | ⟨enabled, -, b, rest, queued, rfl⟩
  · exact .refl s ts
  · obtain ⟨-, -, empty, -⟩ := State.txLoadEnabled_iff.mp enabled
    have queued : s.txFifo = b :: rest := queued
    have empty : s.txShift = none := empty
    exact ⟨rfl, by simp [sentStream, queued, empty], queued ▸ List.suffix_cons b rest, List.prefix_rfl⟩

theorem hardwareSince_of_txDone {s t : State} {ts : List Turn}
    (h : exec .txDone { s with schedule := ts } = .next t) : HardwareSince s ts t := by
  rcases execTxDone_eq_next.mp h with ⟨-, rfl⟩ | ⟨b, shifting, rfl⟩
  · exact .refl s ts
  · have shifting : s.txShift = some b := shifting
    exact ⟨rfl, by simp [sentStream, shifting], List.suffix_rfl, List.prefix_rfl⟩

theorem hardwareSince_of_rxArrive {d : Byte} {s t : State} {ts : List Turn}
    (h : exec (.rxArrive d) { s with schedule := ts } = .next t) : HardwareSince s ts t := by
  rcases execRxArrive_eq_next.mp h with ⟨-, rfl⟩ | ⟨-, -, -, rfl⟩ | ⟨-, -, -, rfl⟩
  · exact .refl s ts
  · exact .refl s ts
  · exact ⟨rfl, rfl, List.suffix_rfl, List.prefix_append _ _⟩

theorem step_of_scheduled_hardware {s : State} {x : Turn} {i : Instr} {ts : List Turn} (hs : s.schedule = x :: ts)
    (hi : x.instr? = some i) : step s = exec i { s with schedule := ts } := by
  rw [← State.turn_of_schedule hs] at hi
  rw [step_of_hardware hi, State.afterTurn_of_schedule hs]

theorem hardwareSince_of_step {s t : State} {x : Turn} {ts : List Turn} (hs : s.schedule = x :: ts)
    (hx : x.isHardware = true) (h : step s = .next t) : HardwareSince s ts t := by
  cases x with
  | master | reset | context => cases hx
  | txLoad => exact hardwareSince_of_txLoad ((step_of_scheduled_hardware hs rfl).symm.trans h)
  | txDone => exact hardwareSince_of_txDone ((step_of_scheduled_hardware hs rfl).symm.trans h)
  | rxArrive d => exact hardwareSince_of_rxArrive ((step_of_scheduled_hardware hs rfl).symm.trans h)
  | modemChange =>
    obtain rfl := next_eq_next.mp ((step_of_scheduled_hardware hs rfl).symm.trans h)
    exact .refl s ts

/-- In an admitted configuration no hardware step is refused (R176). -/
theorem hardware_step_answers {s : State} {x : Turn} {ts : List Turn} (hs : s.schedule = x :: ts)
    (hx : x.isHardware = true) (admitted : s.lineAdmitted = true) : ∃ t, step s = .next t := by
  have admitted : State.lineAdmitted { s with schedule := ts } = true := admitted
  cases x with
  | master | reset | context => cases hx
  | txLoad =>
    rw [step_of_scheduled_hardware hs rfl]
    simp only [exec, execTxLoad, admitted, if_true]
    split <;> exact ⟨_, rfl⟩
  | txDone =>
    rw [step_of_scheduled_hardware hs rfl]
    simp only [exec, execTxDone]
    split <;> exact ⟨_, rfl⟩
  | rxArrive d =>
    rw [step_of_scheduled_hardware hs rfl]
    simp only [exec, execRxArrive, admitted, if_true]
    split
    · split <;> exact ⟨_, rfl⟩
    · exact ⟨_, rfl⟩
  | modemChange => exact ⟨_, step_of_scheduled_hardware hs rfl⟩

/-! ## Any number of them -/

theorem HardwareSince.schedule_eq {a s : State} {ts : List Turn} (h : HardwareSince a ts s) : s.schedule = ts :=
  by
  rw [h.frame]

theorem HardwareSince.call_eq {a s : State} {ts : List Turn} (h : HardwareSince a ts s) : s.call = a.call :=
  by
  rw [h.frame]

/-- No hardware step changes whether the configuration is admitted. -/
theorem HardwareSince.lineAdmitted_eq {a s : State} {ts : List Turn} (h : HardwareSince a ts s) :
    s.lineAdmitted = a.lineAdmitted :=
  by rw [h.frame]; rfl

theorem HardwareSince.trans_run {a s t : State} {h ts : List Turn} (since : HardwareSince a (h ++ ts) s)
    (hh : ∀ x ∈ h, x.isHardware = true) (hrun : run h.length s = .next t) : HardwareSince a ts t := by
  induction h generalizing s with
  | nil => obtain rfl := next_eq_next.mp hrun; exact since
  | cons x h ih =>
    obtain ⟨u, hstep, hrun⟩ := run_succ_eq_next.mp hrun
    exact ih (since.trans (hardwareSince_of_step since.schedule_eq (hh x (by simp)) hstep))
      (fun y hy => hh y (List.mem_cons_of_mem x hy)) hrun

theorem HardwareSince.run_answers {a s : State} {h ts : List Turn} (since : HardwareSince a (h ++ ts) s)
    (hh : ∀ x ∈ h, x.isHardware = true) (admitted : a.lineAdmitted = true) :
    ∃ t, run h.length s = .next t := by
  induction h generalizing s with
  | nil => exact ⟨s, rfl⟩
  | cons x h ih =>
    have hx := hh x (by simp)
    obtain ⟨u, hstep⟩ := hardware_step_answers since.schedule_eq hx (since.lineAdmitted_eq.trans admitted)
    obtain ⟨t, hrun⟩ := ih (since.trans (hardwareSince_of_step since.schedule_eq hx hstep))
      (fun y hy => hh y (List.mem_cons_of_mem x hy))
    exact ⟨t, run_succ_eq_next.mpr ⟨u, hstep, hrun⟩⟩

end Sys2Proof.Machine
end

section
/-! Whole runs of INIT (spec/42_initialize.md R144, R146, R148): four turns of the bus master in a row, or with hardware
steps between them. -/

namespace Sys2Proof.Machine

/-- The state with the configuration that INIT leaves, and INIT done (R144). -/
def State.initialized (s : State) (c b : Nat) : State :=
  { s with
    divisor := s.params.divisor c b
    ibrd := s.params.initIbrd c b
    fbrd := s.params.initFbrd c b
    lcrh := lcrhInit s.params.layout
    cr := crInit s.params.layout
    baudLatch := ⟨s.params.initIbrd c b, s.params.initFbrd c b⟩
    call := none }

theorem step_of_scheduled_call {s : State} {c : Call} {ts : List Turn} (hs : s.schedule = .master :: ts)
    (hc : s.call = some c) : step s = exec c.instr { s with schedule := ts } := by
  rw [step_of_call (State.turn_of_schedule hs) hc, State.afterTurn_of_schedule hs]

/-- The first step of INIT at the head of the program. -/
theorem step_initStart_eq_next {s t : State} {c b : Nat} {base : Option Nat} {rest : List Item} {ts : List Turn}
    (hL : s.params.layout.wf = true) (hc : s.call = none) (hp : s.program = ⟨base, .call (.init c b)⟩ :: rest)
    (hs : s.schedule = .master :: ts) :
    step s = .next t ↔ s.params.baud b ≠ 0 ∧ (s.setBase base).baseOk = true ∧
      t = { s.issued ts rest base with divisor := s.params.divisor c b }.afterInitPhase c b .I0 := by
  have issued : step s = exec (.init c b) (s.issued ts rest base) := step_of_fetch_next (fetch_of_head hs hc hp)
  rw [issued]
  exact exec_init_start_eq_next (s := s.issued ts rest base) hL hc

/-- The step of INIT in phase `ph`. -/
theorem step_initPhase_eq_next {s t : State} {c b : Nat} {ph : InitPhase} {ts : List Turn}
    (hL : s.params.layout.wf = true) (hc : s.call = some (.init c b ph)) (hs : s.schedule = .master :: ts) :
    step s = .next t ↔ s.params.baud b ≠ 0 ∧ s.baseOk = true ∧ (ph = .I2 → s.AdmitsLcrhInit) ∧
      t = { s with schedule := ts }.afterInitPhase c b ph := by
  rw [step_of_scheduled_call hs hc]
  exact exec_init_phase_eq_next (s := { s with schedule := ts }) hL hc

/-- INIT undisturbed: four turns of the bus master leave its configuration, unless the third write is refused. -/
theorem run_init_undisturbed {s : State} {c b : Nat} {base : Option Nat} {rest : List Item} {ts : List Turn}
    (hL : s.params.layout.wf = true) (rate : s.params.baud b ≠ 0) (hb : (s.setBase base).baseOk = true)
    (hc : s.call = none) (hp : s.program = ⟨base, .call (.init c b)⟩ :: rest)
    (hs : s.schedule = .master :: .master :: .master :: .master :: ts)
    (admits : ((s.afterInitPhase c b .I0).afterInitPhase c b .I1).AdmitsLcrhInit) :
    run 4 s = .next ((s.issued ts rest base).initialized c b) := by
  refine run_succ_eq_next.mpr ⟨_, (step_initStart_eq_next hL hc hp hs).mpr ⟨rate, hb, rfl⟩, ?_⟩
  refine run_succ_eq_next.mpr ⟨_, Iff.mpr (step_initPhase_eq_next (ph := .I1) hL rfl rfl) ⟨rate, hb, nofun, rfl⟩, ?_⟩
  refine run_succ_eq_next.mpr
    ⟨_, Iff.mpr (step_initPhase_eq_next (ph := .I2) hL rfl rfl) ⟨rate, hb, fun _ => admits, rfl⟩, ?_⟩
  exact run_succ_eq_next.mpr
    ⟨_, Iff.mpr (step_initPhase_eq_next (ph := .I3) hL rfl rfl) ⟨rate, hb, nofun, rfl⟩, rfl⟩

/-! ## Hardware steps between the writes (R144) -/

/-- A phase of INIT and the hardware steps before it do not disturb each other. -/
theorem HardwareSince.afterInitPhase {a s : State} {us : List Turn} (since : HardwareSince a us s) (ts : List Turn)
    (c b : Nat) (ph : InitPhase) :
    HardwareSince (a.afterInitPhase c b ph) ts ({ s with schedule := ts }.afterInitPhase c b ph) where
  frame := by rw [since.frame]; cases ph <;> rfl
  sent := by cases ph <;> exact since.sent
  tx_suffix := by cases ph <;> exact since.tx_suffix
  rx_prefix := by cases ph <;> exact since.rx_prefix

theorem HardwareSince.params_eq {a s : State} {ts : List Turn} (h : HardwareSince a ts s) : s.params = a.params := by
  rw [h.frame]

/-- A write of INIT and the hardware steps up to the next one. -/
theorem HardwareSince.run_initPhase {a s t : State} {c b : Nat} {ph : InitPhase} {h ts : List Turn}
    (since : HardwareSince a (.master :: (h ++ ts)) s) (hL : a.params.layout.wf = true)
    (hc : a.call = some (.init c b ph)) (hh : ∀ x ∈ h, x.isHardware = true)
    (hrun : run (h.length + 1) s = .next t) : HardwareSince (a.afterInitPhase c b ph) ts t := by
  obtain ⟨u, hstep, hrun⟩ := run_succ_eq_next.mp hrun
  obtain ⟨-, -, -, rfl⟩ := (step_initPhase_eq_next (since.params_eq ▸ hL) (since.call_eq.trans hc)
    since.schedule_eq).mp hstep
  exact (since.afterInitPhase (h ++ ts) c b ph).trans_run hh hrun

/-- The turns of INIT, counted write by write. -/
theorem init_turns (l m n : Nat) : l + m + n + 4 = l + ((m + 1) + ((n + 1) + (0 + 1))) + 1 := by omega

section
variable {s : State} {c b : Nat} {base : Option Nat} {rest : List Item} {h1 h2 h3 ts : List Turn}
  (hL : s.params.layout.wf = true) (hc : s.call = none) (hp : s.program = ⟨base, .call (.init c b)⟩ :: rest)
  (hh : ∀ x ∈ h1 ++ h2 ++ h3, x.isHardware = true)
  (hs : s.schedule = .master :: h1 ++ .master :: h2 ++ .master :: h3 ++ .master :: ts)
include hL hc hp hh hs

/-- Whatever hardware steps run between its writes, INIT leaves its configuration. -/
theorem hardwareSince_of_run_init {t : State} (hrun : run (h1.length + h2.length + h3.length + 4) s = .next t) :
    HardwareSince ((s.issued ts rest base).initialized c b) ts t := by
  simp only [List.cons_append, List.append_assoc] at hs
  simp only [List.mem_append, or_imp, forall_and] at hh
  obtain ⟨⟨hh1, hh2⟩, hh3⟩ := hh
  rw [init_turns] at hrun
  obtain ⟨u, hstep, hrun⟩ := run_succ_eq_next.mp hrun
  obtain ⟨u1, hrun1, hrun⟩ := run_add_eq_next.mp hrun
  obtain ⟨u2, hrun2, hrun⟩ := run_add_eq_next.mp hrun
  obtain ⟨u3, hrun3, hrun4⟩ := run_add_eq_next.mp hrun
  obtain ⟨-, -, rfl⟩ := (step_initStart_eq_next hL hc hp hs).mp hstep
  have since1 : HardwareSince
      ({ s.issued ts rest base with divisor := s.params.divisor c b }.afterInitPhase c b .I0) _ u1 :=
    (HardwareSince.refl _ _).trans_run hh1 hrun1
  have since2 := since1.run_initPhase (ph := .I1) hL rfl hh2 hrun2
  have since3 := since2.run_initPhase (ph := .I2) hL rfl hh3 hrun3
  exact since3.run_initPhase (ph := .I3) (h := []) hL rfl nofun hrun4

end

/-- The word INIT writes to LCR_H enables the FIFOs, so the capacities are the depths (R28). -/
theorem State.initialized_caps {s : State} (hL : s.params.layout.wf = true) (c b : Nat) :
    (s.initialized c b).txCap = s.params.txDepth ∧ (s.initialized c b).rxCap = s.params.rxDepth :=
  ⟨if_pos (lcrhFen_lcrhInit hL), if_pos (lcrhFen_lcrhInit hL)⟩

/-- Settles O29: the run leaves the configuration of INIT up to the bytes that hardware moved. -/
theorem initFinalState : Obligations.InitFinalState := by
  unfold Obligations.InitFinalState
  intro s t c b base rest h1 h2 h3 ts hL hh hc hp hs hrun L B d i f
  have since := hardwareSince_of_run_init hL hc hp hh hs hrun
  have caps := State.initialized_caps (s := s.issued ts rest base) hL c b
  have sent : sentStream t = sentStream s := since.sent
  rw [← sent, since.frame]
  exact ⟨rfl, rfl, rfl, rfl, rfl, rfl, rfl, getLsbD_lcrhInit_iff hL, getLsbD_crInit_iff hL, caps.1, caps.2, rfl, rfl,
    rfl, rfl⟩

/-! ## A second INIT with the same arguments (R146) -/

/-- The block holds what INIT with these arguments leaves, and INIT can run: the rate is not 0 and BASE is good. -/
structure State.InitHeld (s : State) (c b : Nat) : Prop where
  layout_wf : s.params.layout.wf = true
  rate : s.params.baud b ≠ 0
  baseOk : s.baseOk = true
  ibrd : s.ibrd = s.params.initIbrd c b
  fbrd : s.fbrd = s.params.initFbrd c b
  lcrh : s.lcrh = lcrhInit s.params.layout
  cr : s.cr = crInit s.params.layout
  baudLatch : s.baudLatch = ⟨s.params.initIbrd c b, s.params.initFbrd c b⟩

section
variable {s : State} {c b : Nat} (held : s.InitHeld c b)
include held

/-- Writing what is held is never refused, whatever the queues and the shifter hold (R99 a). -/
theorem State.InitHeld.admitsLcrhInit : s.AdmitsLcrhInit :=
  ⟨.inl (held.lcrh ▸ lcrhFen_lcrhInit held.layout_wf),
    .inr ⟨held.lcrh, by rw [held.baudLatch, State.cellDivisor, held.ibrd, held.fbrd]⟩⟩

/-- A phase writes what is held, so it changes nothing but the phase. -/
theorem State.InitHeld.afterInitPhase_eq (ph : InitPhase) :
    ∃ call, s.afterInitPhase c b ph = { s with call } := by
  cases ph with
  | I0 => exact ⟨_, by rw [State.afterInitPhase, ← held.ibrd]⟩
  | I1 => exact ⟨_, by rw [State.afterInitPhase, ← held.fbrd]⟩
  | I2 =>
    have latched : s.cellDivisor = s.baudLatch := by rw [held.baudLatch, State.cellDivisor, held.ibrd, held.fbrd]
    exact ⟨_, by rw [State.afterInitPhase, ← held.lcrh, latched]⟩
  | I3 => exact ⟨_, by rw [State.afterInitPhase, ← held.cr]⟩

theorem State.InitHeld.afterInitPhase (ph : InitPhase) : (s.afterInitPhase c b ph).InitHeld c b := by
  obtain ⟨call, same⟩ := held.afterInitPhase_eq ph
  rw [same]
  exact { held with }

theorem State.InitHeld.lineAdmitted_afterInitPhase (ph : InitPhase) :
    (s.afterInitPhase c b ph).lineAdmitted = s.lineAdmitted := by
  obtain ⟨call, same⟩ := held.afterInitPhase_eq ph
  rw [same]
  rfl

theorem State.InitHeld.initialized_eq :
    s.initialized c b = { s with divisor := s.params.divisor c b, call := none } := by
  rw [State.initialized, ← held.baudLatch, ← held.ibrd, ← held.fbrd, ← held.lcrh, ← held.cr]

end

/-- A phase of a second INIT answers, and so do the hardware steps up to the next one. -/
theorem HardwareSince.run_initPhase_answers {a s : State} {c b : Nat} {ph : InitPhase} {h ts : List Turn}
    (since : HardwareSince a (.master :: (h ++ ts)) s) (held : a.InitHeld c b) (admitted : a.lineAdmitted = true)
    (hc : a.call = some (.init c b ph)) (hh : ∀ x ∈ h, x.isHardware = true) :
    ∃ t, run (h.length + 1) s = .next t ∧ HardwareSince (a.afterInitPhase c b ph) ts t := by
  have heldNow : s.InitHeld c b := by rw [since.frame]; exact { held with }
  have hstep := (step_initPhase_eq_next heldNow.layout_wf (since.call_eq.trans hc) since.schedule_eq).mpr
    ⟨heldNow.rate, heldNow.baseOk, fun _ => heldNow.admitsLcrhInit, rfl⟩
  obtain ⟨t, hrun⟩ := (since.afterInitPhase (h ++ ts) c b ph).run_answers hh
    ((held.lineAdmitted_afterInitPhase ph).trans admitted)
  have hrun : run (h.length + 1) s = .next t := run_succ_eq_next.mpr ⟨_, hstep, hrun⟩
  exact ⟨t, hrun, since.run_initPhase held.layout_wf hc hh hrun⟩

/-- A second INIT ends, whatever hardware steps run between its writes. -/
theorem run_init_answers {s : State} {c b : Nat} {base : Option Nat} {rest : List Item} {h1 h2 h3 ts : List Turn}
    (held : (s.setBase base).InitHeld c b) (admitted : s.lineAdmitted = true) (hc : s.call = none)
    (hp : s.program = ⟨base, .call (.init c b)⟩ :: rest) (hh : ∀ x ∈ h1 ++ h2 ++ h3, x.isHardware = true)
    (hs : s.schedule = .master :: h1 ++ .master :: h2 ++ .master :: h3 ++ .master :: ts) :
    ∃ t, run (h1.length + h2.length + h3.length + 4) s = .next t := by
  simp only [List.cons_append, List.append_assoc] at hs
  simp only [List.mem_append, or_imp, forall_and] at hh
  obtain ⟨⟨hh1, hh2⟩, hh3⟩ := hh
  have hstep := (step_initStart_eq_next (s := s) held.layout_wf hc hp hs).mpr ⟨held.rate, held.baseOk, rfl⟩
  have held0 : ({ s.issued ts rest base with divisor := s.params.divisor c b }).InitHeld c b := { held with }
  have held1 := held0.afterInitPhase .I0
  have held2 := held1.afterInitPhase .I1
  have admitted1 := (held0.lineAdmitted_afterInitPhase .I0).trans admitted
  have admitted2 := (held1.lineAdmitted_afterInitPhase .I1).trans admitted1
  have admitted3 := (held2.lineAdmitted_afterInitPhase .I2).trans admitted2
  obtain ⟨u1, hrun1⟩ := (HardwareSince.refl _ _).run_answers hh1 admitted1
  have since1 := (HardwareSince.refl _ _).trans_run hh1 hrun1
  obtain ⟨u2, hrun2, since2⟩ := since1.run_initPhase_answers held1 admitted1 (ph := .I1) rfl hh2
  obtain ⟨u3, hrun3, since3⟩ := since2.run_initPhase_answers held2 admitted2 (ph := .I2) rfl hh3
  obtain ⟨t, hrun4, -⟩ := since3.run_initPhase_answers (held2.afterInitPhase .I2) admitted3 (ph := .I3) (h := []) rfl
    nofun
  rw [init_turns]
  exact ⟨t, run_succ_eq_next.mpr ⟨_, hstep, run_add_eq_next.mpr ⟨u1, hrun1,
    run_add_eq_next.mpr ⟨u2, hrun2, run_add_eq_next.mpr ⟨u3, hrun3, hrun4⟩⟩⟩⟩⟩

/-- Settles O30: a second INIT writes what is held, so no phase is refused and none changes a cell or the latch. -/
theorem initIsIdempotent : Obligations.InitIsIdempotent := by
  unfold Obligations.InitIsIdempotent
  intro s c b base rest L B d i f hL rate hb hc hp hi hf hlcrh hcr hlatch
  have held : (s.setBase base).InitHeld c b := ⟨hL, rate, hb, hi, hf, hlcrh, hcr, hlatch⟩
  have same (ts : List Turn) : (s.issued ts rest base).initialized c b =
      { s.setBase base with divisor := d, program := rest, schedule := ts } := by
    have held : (s.issued ts rest base).InitHeld c b := { held with }
    rw [held.initialized_eq, ← hc]
    rfl
  refine ⟨fun ts hs => ?_, fun h1 h2 h3 ts admitted hh hs => ?_⟩
  · have admits := ((held.afterInitPhase .I0).afterInitPhase .I1).admitsLcrhInit
    rw [← same ts]
    exact run_init_undisturbed hL rate hb hc hp hs admits
  · obtain ⟨t, hrun⟩ := run_init_answers held admitted hc hp hh hs
    have since := hardwareSince_of_run_init hL hc hp hh hs hrun
    rw [same ts] at since
    exact ⟨t, hrun, since.frame, since.sent, since.tx_suffix, since.rx_prefix⟩

/-! ## The worked example (R148) -/

/-- 50,000,000 Hz and 115,200 baud give (27, 8). -/
theorem divisor_workedExample {p : Params} (hL : p.layout = Layout.default) (halfUp : p.tie = .halfUp) :
    p.divisor 50000000 115200 = ⟨27, 8⟩ := by
  rw [Params.divisor, Params.clock, Params.baud, hL, halfUp, baudDivisor_halfUp]
  rfl

/-- Settles O32: at reset the queues and the shifter are empty, so the undisturbed INIT is not refused. -/
theorem initWorkedExample : Obligations.InitWorkedExample := by
  unfold Obligations.InitWorkedExample
  intro s base rest ts hreset hL hz halfUp hb hp hs
  have idle : s.call = none := call_eq_none_of_atReset hreset
  have txEmpty : s.txFifo = [] := by rw [← hreset, State.resetBlock_txFifo, hz]; rfl
  have rxEmpty : s.rxFifo = [] := by rw [← hreset, State.resetBlock_rxFifo, hz]; rfl
  have unloaded : s.txShift = none := by rw [← hreset, State.resetBlock_txShift, hz]; rfl
  have wf : s.params.layout.wf = true := hL ▸ Layout.default_wf
  have rate : s.params.baud 115200 ≠ 0 := by rw [Params.baud, hL]; decide
  have hrun := run_init_undisturbed (s := s) wf rate hb idle hp hs ⟨.inr ⟨txEmpty, rxEmpty⟩, .inl unloaded⟩
  have divisor := divisor_workedExample hL halfUp
  have ibrd : s.params.initIbrd 50000000 115200 = 27#32 := by rw [Params.initIbrd, divisor, hL]; rfl
  have fbrd : s.params.initFbrd 50000000 115200 = 8#32 := by rw [Params.initFbrd, divisor, hL]; rfl
  have lcrh : lcrhInit s.params.layout = 0x70#32 := by rw [hL]; rfl
  have cr : crInit s.params.layout = 0x0301#32 := by rw [hL]; rfl
  rw [hrun, ← divisor, ← ibrd, ← fbrd, ← lcrh, ← cr, State.initialized, ← idle]
  rfl

end Sys2Proof.Machine
end

section
/-! The phases of the transfers (spec/43_transfer.md R150 to R153): on a good BASE a poll always answers, a write of DR
answers when there is room, and every transfer is made of these. -/

namespace Sys2Proof.Machine

/-! ## One phase -/

section
variable {s : State} {at_ : XferPhase → Call} {after : Option Call} {b : Byte}

theorem sendPhase_poll (hb : s.baseOk = true) : sendPhase at_ after b .POLL s =
    .next (s.readFr.setCall (some (at_ (if s.txff then .POLL else .ACT)))) :=
  sendPhase_eq_next.mpr ⟨hb, rfl⟩

theorem sendPhase_act_of_room (hb : s.baseOk = true) (room : s.txFifo.length < s.txCap) :
    sendPhase at_ after b .ACT s = .next ({ s with txFifo := s.txFifo ++ [b] }.setCall after) :=
  sendPhase_eq_next.mpr ⟨hb, room, rfl⟩

theorem sendPhase_act_of_full (hb : s.baseOk = true) (full : ¬ s.txFifo.length < s.txCap) :
    sendPhase at_ after b .ACT s = .refused .txOverflow :=
  (State.withBase_of_baseOk hb).trans (by rw [State.writeDr_of_full full]; rfl)

theorem receivePhase_poll (hb : s.baseOk = true) : receivePhase .POLL s =
    .next (s.readFr.setCall (some (.readByte (if s.rxfe then .POLL else .ACT)))) :=
  receivePhase_eq_next.mpr ⟨hb, rfl⟩

theorem receivePhase_act (hb : s.baseOk = true) : receivePhase .ACT s =
    .next ({ s.readDr with returned := s.returned ++ [s.dataReg.data] }.setCall none) :=
  receivePhase_eq_next.mpr ⟨hb, rfl⟩

/-- Past its last byte a sequence makes no access and is done (R152). -/
theorem sendSequence_of_end {bytes : List Byte} {at_ : Nat → XferPhase → Call} {n : Nat} {ph : XferPhase}
    (h : bytes.length ≤ n) : sendSequence bytes at_ n ph s = .next (s.setCall none) :=
  sendSequence_eq_next.mpr (.inl ⟨h, rfl⟩)

/-- Inside a sequence its phase is that of the current byte (R152). -/
theorem sendSequence_of_byte {bytes : List Byte} {at_ : Nat → XferPhase → Call} {n : Nat} {ph : XferPhase}
    (h : bytes[n]? = some b) : sendSequence bytes at_ n ph s =
      sendPhase (at_ n) (if n + 1 < bytes.length then some (at_ (n + 1) .POLL) else none) b ph s := by
  simp only [sendSequence, h]

end

/-! ## What a poll reads (R67, R92) -/

/-- From `s` to `t` the bus master read FR and nothing else changed but its operation, which is in a phase `phase`
says of the flag at `bit`. -/
def PollsFlag (s t : State) (bit : Nat) (phase : Bool → Call) : Prop :=
  t = { s with readData := t.readData, draws := t.draws, call := some (phase (t.readData.getLsbD bit)) } ∧
    ∃ u, exec .rdFr s = .next u ∧ t.readData = u.readData

theorem pollsFlag_of_flag {s : State} {bit : Nat} {flag : Bool} (phase : Bool → Call) (hb : s.baseOk = true)
    (read : (s.flagReg.word s.params.layout).getLsbD bit = flag) :
    PollsFlag s (s.readFr.setCall (some (phase flag))) bit phase := by
  subst read
  exact ⟨rfl, s.readFr, State.withBase_of_baseOk hb, rfl⟩

section
variable {s : State} (hL : s.params.layout.wf = true) (hb : s.baseOk = true)
include hL hb

/-- A send's poll reads FR and goes by the bit TXFF of the value read (R150). -/
theorem sendPhase_pollsFlag (at_ : XferPhase → Call) (after : Option Call) (b : Byte) :
    ∃ t, sendPhase at_ after b .POLL s = .next t ∧
      PollsFlag s t s.params.layout.fr.txff fun full => at_ (if full then .POLL else .ACT) := by
  obtain ⟨-, -, -, -, -, txff, -⟩ := FlagReg.word_bits hL s.flagReg
  exact ⟨_, sendPhase_poll hb, pollsFlag_of_flag (fun full => at_ (if full then .POLL else .ACT)) hb txff⟩

/-- A receive's poll reads FR and goes by the bit RXFE of the value read (R151). -/
theorem receivePhase_pollsFlag :
    ∃ t, receivePhase .POLL s = .next t ∧
      PollsFlag s t s.params.layout.fr.rxfe fun empty => .readByte (if empty then .POLL else .ACT) := by
  obtain ⟨-, -, -, -, rxfe, -⟩ := FlagReg.word_bits hL s.flagReg
  exact ⟨_, receivePhase_poll hb, pollsFlag_of_flag (fun empty => .readByte (if empty then .POLL else .ACT)) hb rxfe⟩

end

/-! ## Which phase an operation runs -/

/-- The operation of `c`, run in `s`, runs phase `c`: it goes on there, or it starts there. -/
def State.InPhase (s : State) (c : Call) : Prop :=
  s.call = some c ∨ (s.call = none ∧ firstPhase? c.instr = some c)

section
variable {s : State} {ph : XferPhase}

theorem exec_writeByte_of_inPhase {b : Byte} (h : s.InPhase (.writeByte b ph)) :
    exec (.writeByte b) s = sendPhase (.writeByte b) none b ph s := by
  rcases h with hc | ⟨hc, start⟩
  · simp [exec, execWriteByte, hc]
  · cases start; simp [exec, execWriteByte, hc]

theorem exec_readByte_of_inPhase (h : s.InPhase (.readByte ph)) : exec .readByte s = receivePhase ph s := by
  rcases h with hc | ⟨hc, start⟩
  · simp [exec, execReadByte, hc]
  · cases start; simp [exec, execReadByte, hc]

theorem exec_writeBytes_of_inPhase {bytes : List Byte} {n : Nat} (h : s.InPhase (.writeBytes bytes n ph)) :
    exec (.writeBytes bytes) s = sendSequence bytes (.writeBytes bytes) n ph s := by
  rcases h with hc | ⟨hc, start⟩
  · simp [exec, execWriteBytes, hc]
  · cases start; simp [exec, execWriteBytes, hc]

theorem exec_writeStr_of_inPhase {text : List Char} {n : Nat} (h : s.InPhase (.writeStr text n ph)) :
    exec (.writeStr text) s = sendSequence (s.params.encode text) (.writeStr text) n ph s := by
  rcases h with hc | ⟨hc, start⟩
  · simp [exec, execWriteStr, hc]
  · cases start; simp [exec, execWriteStr, hc]

end

/-- Settles O33: WRITE_BYTE is the phase it is in, or POLL where it starts. -/
theorem writeBytePhases : Obligations.WriteBytePhases := by
  unfold Obligations.WriteBytePhases
  intro s b hL hb
  refine ⟨fun hc => ?_, fun hc room => ?_, fun hc full => ?_⟩
  · rw [exec_writeByte_of_inPhase (hc.symm.imp_right fun idle => ⟨idle, rfl⟩)]
    exact sendPhase_pollsFlag hL hb (.writeByte b) none b
  · rw [exec_writeByte_of_inPhase (.inl hc)]
    exact sendPhase_act_of_room hb room
  · rw [exec_writeByte_of_inPhase (.inl hc)]
    exact sendPhase_act_of_full hb full

/-- Settles O34: READ_BYTE is the phase it is in, or POLL where it starts; the low byte of the word read from DR is the
byte that DR holds. -/
theorem readBytePhases : Obligations.ReadBytePhases := by
  unfold Obligations.ReadBytePhases
  intro s hL hb
  refine ⟨fun hc => ?_, fun hc => ?_⟩
  · rw [exec_readByte_of_inPhase (hc.symm.imp_right fun idle => ⟨idle, rfl⟩)]
    exact receivePhase_pollsFlag hL hb
  · rw [exec_readByte_of_inPhase (.inl hc)]
    have low : (s.dataReg.word s.params.layout).setWidth 8 = s.dataReg.data := DataReg.setWidth_word hL _
    refine ⟨_, receivePhase_act hb, ?_, fun d rest queued => ?_⟩
    · simp only [State.setCall_readData, State.readDr_readData, low]; rfl
    · exact low.trans (by rw [State.dataReg_cons queued])

/-- `i` sends the sequence `bytes`, and `at_ n ph` is its phase `ph` of byte `n` (R152, R153). -/
structure SendsSequence (p : Params) (i : Instr) (bytes : List Byte) (at_ : Nat → XferPhase → Call) : Prop where
  instr_eq (n : Nat) (ph : XferPhase) : (at_ n ph).instr = i
  start : firstPhase? i = some (at_ 0 .POLL)
  exec_eq {s : State} {n : Nat} {ph : XferPhase} (hp : s.params = p) (h : s.InPhase (at_ n ph)) :
    exec i s = sendSequence bytes at_ n ph s

theorem sendsSequence_writeBytes (p : Params) (bytes : List Byte) :
    SendsSequence p (.writeBytes bytes) bytes (.writeBytes bytes) :=
  ⟨fun _ _ => rfl, rfl, fun _ h => exec_writeBytes_of_inPhase h⟩

theorem sendsSequence_writeStr (p : Params) (text : List Char) :
    SendsSequence p (.writeStr text) (p.encode text) (.writeStr text) :=
  ⟨fun _ _ => rfl, rfl, fun hp h => hp ▸ exec_writeStr_of_inPhase h⟩

/-- Settles O35: both operations send a sequence, and the phase of a sequence is that of its current byte. -/
theorem writeSequencePhases : Obligations.WriteSequencePhases := by
  unfold Obligations.WriteSequencePhases
  intro s bytes i at_ hi
  have sends : SendsSequence s.params i bytes at_ := by
    rcases hi with ⟨rfl, rfl⟩ | ⟨text, rfl, rfl, rfl⟩
    · exact sendsSequence_writeBytes s.params bytes
    · exact sendsSequence_writeStr s.params text
  have starts (hc : s.call = none) : s.InPhase (at_ 0 .POLL) := .inr ⟨hc, by rw [sends.instr_eq, sends.start]⟩
  refine ⟨fun hn hc => ?_, fun hL hb k hk hc => ?_, fun hb k b hk hc room => ?_, fun hb k hk hc full => ?_,
    fun k ph hk hc => ?_⟩
  · rw [sends.exec_eq rfl (starts hc), sendSequence_of_end (by simp [hn]), State.setCall, ← hc]
  · have phase : s.InPhase (at_ k .POLL) := by
      rcases hc with ⟨idle, rfl⟩ | hc
      · exact starts idle
      · exact .inl hc
    rw [sends.exec_eq rfl phase, sendSequence_of_byte (List.getElem?_eq_getElem hk)]
    exact sendPhase_pollsFlag hL hb (at_ k) _ _
  · rw [sends.exec_eq rfl (.inl hc), sendSequence_of_byte hk]
    exact sendPhase_act_of_room hb room
  · rw [sends.exec_eq rfl (.inl hc), sendSequence_of_byte (List.getElem?_eq_getElem hk)]
    exact sendPhase_act_of_full hb full
  · rw [sends.exec_eq rfl (.inl hc), sendSequence_of_end hk]
    rfl

end Sys2Proof.Machine
end

section
/-! A running operation is never refused under the invariants (spec/43_transfer.md R155, R156): it is one phase of its
transfer, whose poll always answers and whose access of DR finds what the poll announced. -/

namespace Sys2Proof.Machine

/-! ## The sends as one -/

/-- The same transfer in phase `ph`. -/
def Call.atPhase : Call → XferPhase → Call
  | .init c b i, _ => .init c b i
  | .writeByte b _, ph => .writeByte b ph
  | .readByte _, ph => .readByte ph
  | .writeBytes bytes n _, ph => .writeBytes bytes n ph
  | .writeStr text n _, ph => .writeStr text n ph

/-- What the operation goes on as when its current byte is written: the next byte of a sequence starts in POLL
(R152). -/
def Call.afterByte (p : Params) : Call → Option Call
  | .writeBytes bytes n _ => if n + 1 < bytes.length then some (.writeBytes bytes (n + 1) .POLL) else none
  | .writeStr text n _ => if n + 1 < (p.encode text).length then some (.writeStr text (n + 1) .POLL) else none
  | .init _ _ _ | .writeByte _ _ | .readByte _ => none

@[simp] theorem Call.pending_atPhase (p : Params) (c : Call) (ph : XferPhase) :
    (c.atPhase ph).pending p = c.pending p := by
  cases c <;> rfl

theorem Call.aboutToWrite_atPhase_poll (c : Call) : (c.atPhase .POLL).aboutToWrite = false := by
  cases c <;> rfl

theorem Call.aboutToWrite_atPhase_act {c : Call} {p : Params} {b : Byte} {rest : List Byte}
    (hp : c.pending p = b :: rest) : (c.atPhase .ACT).aboutToWrite = true := by
  cases c with
  | init | readByte => cases hp
  | writeByte | writeBytes | writeStr => rfl

theorem getElem?_of_drop_eq_cons {bytes rest : List Byte} {n : Nat} {b : Byte} (h : bytes.drop n = b :: rest) :
    bytes[n]? = some b := by
  rw [← List.head?_drop, h, List.head?_cons]

/-- An operation with bytes still to write runs a phase of sending the first of them. -/
theorem exec_of_pending {s : State} {c : Call} {b : Byte} {rest : List Byte} (hc : s.InPhase c)
    (hp : c.pending s.params = b :: rest) :
    ∃ ph, c = c.atPhase ph ∧ exec c.instr s = sendPhase c.atPhase (c.afterByte s.params) b ph s := by
  cases c with
  | init | readByte => cases hp
  | writeByte b' ph => cases hp; exact ⟨ph, rfl, exec_writeByte_of_inPhase hc⟩
  | writeBytes bytes n ph =>
    exact ⟨ph, rfl, (exec_writeBytes_of_inPhase hc).trans (sendSequence_of_byte (getElem?_of_drop_eq_cons hp))⟩
  | writeStr text n ph =>
    exact ⟨ph, rfl, (exec_writeStr_of_inPhase hc).trans (sendSequence_of_byte (getElem?_of_drop_eq_cons hp))⟩

/-- A running operation other than INIT and READ_BYTE has bytes still to write. -/
theorem Call.pending_of_wf {c : Call} {p : Params} (wf : c.wf p = true) (hi : ∀ k b ph, c ≠ .init k b ph)
    (hr : ∀ ph, c ≠ .readByte ph) : ∃ b rest, c.pending p = b :: rest := by
  apply List.exists_cons_of_ne_nil
  cases c with
  | init k b ph => exact absurd rfl (hi k b ph)
  | readByte ph => exact absurd rfl (hr ph)
  | writeByte b ph => exact List.cons_ne_nil b []
  | writeBytes bytes n ph => exact List.drop_eq_nil_iff.not.mpr (Nat.not_le.mpr (of_decide_eq_true wf))
  | writeStr text n ph => exact List.drop_eq_nil_iff.not.mpr (Nat.not_le.mpr (of_decide_eq_true wf))

section
variable {s : State} {c : Call} {b : Byte} {rest : List Byte} (hb : s.baseOk = true) (hc : s.InPhase c)
  (hp : c.pending s.params = b :: rest)
include hb hc hp

/-- A send that is not about to write polls: it goes on to write where the poll finds room, else it polls again. -/
theorem exec_send_poll (polls : c.aboutToWrite = false) :
    exec c.instr s = .next (s.readFr.setCall (some (if s.txff then c else c.atPhase .ACT))) := by
  obtain ⟨ph, hph, hexec⟩ := exec_of_pending hc hp
  cases ph with
  | POLL => rw [hexec, sendPhase_poll hb, apply_ite c.atPhase, ← hph]
  | ACT => rw [hph, Call.aboutToWrite_atPhase_act hp] at polls; cases polls

/-- A send about to write puts its byte at the end of a FIFO with room, and goes on to the next byte. -/
theorem exec_send_act (writes : c.aboutToWrite = true) (room : s.txFifo.length < s.txCap) :
    exec c.instr s = .next ({ s with txFifo := s.txFifo ++ [b] }.setCall (c.afterByte s.params)) := by
  obtain ⟨ph, hph, hexec⟩ := exec_of_pending hc hp
  cases ph with
  | POLL => rw [hph, Call.aboutToWrite_atPhase_poll] at writes; cases writes
  | ACT => rw [hexec, sendPhase_act_of_room hb room]

end

/-- Settles O38: of the phases only a write of DR or LCR_H can be refused on a good BASE, and R155 gives the write of DR
its room, R156 the read its byte. -/
theorem runningCallsNeverRefused : Obligations.RunningCallsNeverRefused := by
  unfold Obligations.RunningCallsNeverRefused
  intro s c h hb hc hI2
  have send (hi : ∀ k b ph, c ≠ .init k b ph) (hr : ∀ ph, c ≠ .readByte ph) : ∃ t, exec c.instr s = .next t ∧
      (c.aboutToWrite = true → t.txFifo.length = s.txFifo.length + 1) ∧
      (c = .readByte .ACT → ∃ d, s.rxFifo = d :: t.rxFifo ∧ t.returned = s.returned ++ [d]) := by
    obtain ⟨b, rest, hp⟩ := Call.pending_of_wf (h.call_wf c hc) hi hr
    cases hw : c.aboutToWrite with
    | false => exact ⟨_, exec_send_poll hb (.inl hc) hp hw, nofun, fun hr' => absurd hr' (hr _)⟩
    | true =>
      exact ⟨_, exec_send_act hb (.inl hc) hp hw (h.write_room c hc hw), fun _ => List.length_append,
        fun hr' => absurd hr' (hr _)⟩
  cases c with
  | init k b ph =>
    have rate : s.params.baud b ≠ 0 := bne_iff_ne.mp (h.call_wf _ hc)
    have notI2 : ph = .I2 → s.AdmitsLcrhInit := by rintro rfl; exact absurd rfl (hI2 k b)
    exact ⟨_, (exec_init_phase_eq_next h.layout_wf hc).mpr ⟨rate, hb, notI2, rfl⟩, nofun, nofun⟩
  | readByte ph =>
    rw [Call.instr, exec_readByte_of_inPhase (.inl hc)]
    cases ph with
    | POLL => exact ⟨_, receivePhase_poll hb, nofun, nofun⟩
    | ACT =>
      obtain ⟨d, rest, queued⟩ := List.exists_cons_of_ne_nil (h.read_byte hc)
      refine ⟨_, receivePhase_act hb, nofun, fun _ => ⟨d, ?_, ?_⟩⟩
      · simp [queued]
      · simp [State.dataReg_cons queued]
  | writeByte | writeBytes | writeStr => exact send nofun nofun

end Sys2Proof.Machine
end

section
/-! The bytes sent (spec/43_transfer.md R152, R158, spec/44_line_side.md R177, R223): what a step accepts is the
beginning of what the bus master had asked for, and the rest is what its operation has yet to write. -/

namespace Sys2Proof.Machine

/-! ## What an operation of the software is -/

/-- The operation is one of the hardware's or RESET, which the software does not run. -/
def isAgentStep : Instr → Bool
  | .txLoad | .txDone | .rxArrive _ | .modemChange | .reset => true
  | _ => false

theorem isAgentStep_operationAt (write : Bool) (off : Offset) (v : Word) (row : Option Reg) :
    isAgentStep (operationAt write off v row) = false := by
  cases row with
  | none => cases write <;> rfl
  | some r => cases write <;> cases r <;> rfl

theorem isAgentStep_driverOp (op : DriverOp) : isAgentStep op.instr = false := by
  cases op <;> rfl

theorem fetchWord_isAgentStep {t : Transaction} {s u : State} {i : Instr} (h : fetchWord t s = .next (some i, u)) :
    isAgentStep i = false := by
  unfold fetchWord at h
  split at h
  · cases h
    obtain ⟨-, -, rfl⟩ := selectInstr_eq_ok.mp ‹decode _ t = _›
    exact isAgentStep_operationAt _ _ _ _
  · cases h
  · cases h

theorem fetchRequest_isAgentStep {r : Request} {s u : State} {i : Instr}
    (h : fetchRequest r s = .next (some i, u)) : isAgentStep i = false := by
  cases r with
  | word t => exact fetchWord_isAgentStep h
  | call op => cases h; exact isAgentStep_driverOp op
  | access a =>
    simp only [fetchRequest, fetchAccess] at h
    split at h
    · cases h
    · split at h
      · cases h
      · split at h
        · cases h
        · exact fetchWord_isAgentStep h

/-- Between two operations the software issues no step of another agent (R51). -/
theorem fetch_isAgentStep {s t : State} {i : Instr} (hturn : s.turn.instr? = none) (hc : s.call = none)
    (h : fetch s = .next (some i, t)) : isAgentStep i = false := by
  rcases Turn.instr?_eq_none.mp hturn with hm | ⟨item, hm⟩
  · cases hp : s.program with
    | nil => simp [fetch_of_master hm, fetchMaster, hc, hp] at h
    | cons item rest => rw [fetch_of_item hm hc hp] at h; exact fetchRequest_isAgentStep h
  · rw [fetch_of_context hm, fetchContext, State.afterTurn_call, hc] at h
    exact fetchRequest_isAgentStep h

/-! ## What an operation accepts and takes -/

/-- From `s` to `t` a beginning of `asked` was accepted for sending; the rest `t`'s operation has yet to write. -/
def Accepts (asked : List Byte) (s t : State) : Prop :=
  ∃ out, sentStream t = sentStream s ++ out ∧ out ++ pendingBytes t = asked

theorem Accepts.of_same {s t : State} (sent : sentStream t = sentStream s) : Accepts (pendingBytes t) s t :=
  ⟨[], by simp [sent], rfl⟩

theorem sentStream_push (s : State) (b : Byte) :
    sentStream { s with txFifo := s.txFifo ++ [b] } = sentStream s ++ [b] := by
  simp [sentStream]

/-- A register operation, BAUDDIV or BIND leaves the running operation alone and accepts the byte of a write of
DR. -/
theorem exec_of_register {i : Instr} {s t : State} (hi : firstPhase? i = none) (agent : isAgentStep i = false)
    (h : exec i s = .next t) :
    t.call = s.call ∧ sentStream t = sentStream s ++ requestedBytes s.params i := by
  cases i with
  | init | writeByte | readByte | writeBytes | writeStr => cases hi
  | txLoad | txDone | rxArrive | modemChange | reset => cases agent
  | rdReserved | wrReserved => cases h
  | wrDr v =>
    obtain ⟨-, h⟩ := State.withBase_eq_next.mp h
    obtain ⟨-, rfl⟩ := State.writeDr_eq_next.mp h
    exact ⟨rfl, sentStream_push s _⟩
  | wrLcrh v =>
    obtain ⟨-, h⟩ := State.withBase_eq_next.mp h
    obtain ⟨-, -, rfl⟩ := State.writeLcrh_eq_next.mp h
    exact ⟨rfl, (List.append_nil _).symm⟩
  | bauddiv c b =>
    simp only [exec, execBauddiv] at h
    split at h
    · cases h
    · cases h; exact ⟨rfl, (List.append_nil _).symm⟩
  | bind base => obtain rfl := next_eq_next.mp h; exact ⟨rfl, (List.append_nil _).symm⟩
  | _ => obtain rfl := eq_of_withBase_next h; exact ⟨rfl, (List.append_nil _).symm⟩

/-- A phase of INIT sends nothing (R140). -/
theorem initPhase_sends_nothing {c b : Nat} {ph : InitPhase} {s t : State} (h : initPhase c b ph s = .next t) :
    sentStream t = sentStream s ∧ pendingBytes t = [] := by
  have h := (initPhase_eq_next.mp h).2
  cases ph with
  | I0 | I1 | I3 => subst h; exact ⟨rfl, rfl⟩
  | I2 =>
    obtain ⟨u, hu, rfl⟩ := h
    obtain ⟨-, -, rfl⟩ := State.writeLcrh_eq_next.mp hu
    exact ⟨rfl, rfl⟩

theorem exec_init_sends_nothing {c b : Nat} {s t : State} (h : exec (.init c b) s = .next t) :
    sentStream t = sentStream s ∧ pendingBytes t = [] := by
  obtain ⟨-, ⟨-, h⟩ | ⟨ph, -, h⟩⟩ := execInit_eq_next.mp h
  · exact initPhase_sends_nothing (s := { s with divisor := s.params.divisor c b }) h
  · exact initPhase_sends_nothing h

/-- READ_BYTE sends nothing (R151). -/
theorem exec_readByte_sends_nothing {s t : State} (h : exec .readByte s = .next t) :
    sentStream t = sentStream s ∧ pendingBytes t = [] := by
  obtain ⟨ph, -, h⟩ := execReadByte_eq_next.mp h
  have h := (receivePhase_eq_next.mp h).2
  cases ph <;> subst h <;> exact ⟨rfl, rfl⟩

/-- When its current byte is written, a send has the rest yet to write (R152). -/
theorem pendingBytes_afterByte {s : State} {c : Call} {b : Byte} {rest : List Byte}
    (hp : c.pending s.params = b :: rest) : pendingBytes (s.setCall (c.afterByte s.params)) = rest := by
  have next {bytes : List Byte} {n : Nat} (hn : bytes.drop n = b :: rest) : bytes.drop (n + 1) = rest := by
    rw [← List.tail_drop, hn, List.tail_cons]
  have last {bytes : List Byte} {n : Nat} (hn : bytes.drop n = b :: rest) (h : ¬ n + 1 < bytes.length) :
      rest = [] := by
    rw [← next hn, List.drop_eq_nil_iff]
    omega
  cases c with
  | init | readByte => cases hp
  | writeByte => cases hp; rfl
  | writeBytes bytes n ph =>
    by_cases h : n + 1 < bytes.length
    · rw [Call.afterByte, if_pos h]; exact next hp
    · rw [Call.afterByte, if_neg h, last hp h]; rfl
  | writeStr text n ph =>
    by_cases h : n + 1 < (s.params.encode text).length
    · rw [Call.afterByte, if_pos h]; exact next hp
    · rw [Call.afterByte, if_neg h, last hp h]; rfl

/-- A sequence with nothing left to write ends. -/
theorem exec_sequence_end {p : Params} {i : Instr} {bytes : List Byte} {at_ : Nat → XferPhase → Call} {s t : State}
    {n : Nat} {ph : XferPhase} (sends : SendsSequence p i bytes at_) (hs : s.params = p) (hc : s.InPhase (at_ n ph))
    (hp : bytes.drop n = []) (h : exec i s = .next t) : t = s.setCall none := by
  rw [sends.exec_eq hs hc, sendSequence_of_end (List.drop_eq_nil_iff.mp hp)] at h
  exact next_eq_next.mp h

/-- A phase of a driver operation accepts a beginning of what its operation has to write. -/
theorem accepts_of_inPhase {s t : State} {c : Call} (hc : s.InPhase c) (h : exec c.instr s = .next t) :
    Accepts (c.pending s.params) s t := by
  cases hp : c.pending s.params with
  | cons b rest =>
    obtain ⟨ph, -, hexec⟩ := exec_of_pending hc hp
    have h := (sendPhase_eq_next.mp (hexec.symm.trans h)).2
    cases ph with
    | POLL => subst h; exact ⟨[], (List.append_nil _).symm, (Call.pending_atPhase _ c _).trans hp⟩
    | ACT =>
      obtain ⟨-, rfl⟩ := h
      exact ⟨[b], sentStream_push s b, congrArg (b :: ·) (pendingBytes_afterByte hp)⟩
  | nil =>
    have none_sent (sent : sentStream t = sentStream s) (pending : pendingBytes t = []) : Accepts [] s t :=
      ⟨[], by rw [sent, List.append_nil], pending⟩
    cases c with
    | init =>
      obtain ⟨sent, pending⟩ := exec_init_sends_nothing h
      exact none_sent sent pending
    | readByte =>
      obtain ⟨sent, pending⟩ := exec_readByte_sends_nothing h
      exact none_sent sent pending
    | writeByte => cases hp
    | writeBytes bytes =>
      obtain rfl := exec_sequence_end (sendsSequence_writeBytes _ bytes) rfl hc hp h
      exact none_sent rfl rfl
    | writeStr text =>
      obtain rfl := exec_sequence_end (sendsSequence_writeStr _ text) rfl hc hp h
      exact none_sent rfl rfl

/-! ## What a step newly asks for -/

theorem issued?_of_call {s : State} {c : Call} (hc : s.call = some c) : issued? s = none := by
  unfold issued?
  rw [hc]
  split <;> simp_all

theorem issued?_of_agent {s : State} {i : Instr} (hi : s.turn.instr? = some i) : issued? s = none := by
  unfold issued?
  rw [hi]

theorem issued?_of_fetch {s t : State} {i : Option Instr} (hturn : s.turn.instr? = none) (hc : s.call = none)
    (h : fetch s = .next (i, t)) : issued? s = i := by
  cases i <;> simp [issued?, hturn, hc, h]

theorem issued?_of_idle {s : State} (hm : s.turn = .master) (hc : s.call = none) (hp : s.program = []) :
    issued? s = none :=
  issued?_of_fetch (t := s.afterTurn) (by rw [hm]; rfl) hc (by simp [fetch_of_master hm, fetchMaster, hc, hp])

theorem issuedBytes_of_none {s : State} (h : issued? s = none) : issuedBytes s = [] := by
  simp [issuedBytes, h]

theorem issuedBytes_of_some {s : State} {i : Instr} (h : issued? s = some i) :
    issuedBytes s = requestedBytes s.params i := by
  simp [issuedBytes, h]

theorem pendingBytes_of_none {s : State} (h : s.call = none) : pendingBytes s = [] := by
  simp [pendingBytes, h]

theorem pendingBytes_of_some {s : State} {c : Call} (h : s.call = some c) : pendingBytes s = c.pending s.params := by
  simp [pendingBytes, h]

/-- An operation that has a first phase is the operation of that phase. -/
theorem instr_of_firstPhase? {i : Instr} {c : Call} (h : firstPhase? i = some c) : c.instr = i := by
  cases i <;> cases h <;> rfl

/-- In its first phase an operation has all it was asked to send yet to write. -/
theorem pending_of_firstPhase? {p : Params} {i : Instr} {c : Call} (h : firstPhase? i = some c) :
    c.pending p = requestedBytes p i := by
  cases i <;> cases h <;> rfl

theorem pendingBytes_congr {s t : State} (call : t.call = s.call) (params : t.params = s.params) :
    pendingBytes t = pendingBytes s := by
  simp only [pendingBytes, call, params]

theorem pendingBytes_afterTurn (s : State) : pendingBytes s.afterTurn = pendingBytes s :=
  pendingBytes_congr s.afterTurn_call s.afterTurn_params

@[simp] theorem sentStream_afterTurn (s : State) : sentStream s.afterTurn = sentStream s := by
  simp [sentStream]

/-- An operation issued between two others accepts a beginning of what it is asked to send. -/
theorem accepts_of_issued {s t : State} {i : Instr} (hc : s.call = none) (agent : isAgentStep i = false)
    (h : exec i s = .next t) : Accepts (requestedBytes s.params i) s t := by
  cases first : firstPhase? i with
  | some c =>
    obtain rfl := instr_of_firstPhase? first
    rw [← pending_of_firstPhase? first]
    exact accepts_of_inPhase (.inr ⟨hc, first⟩) h
  | none =>
    obtain ⟨call, sent⟩ := exec_of_register first agent h
    exact ⟨_, sent, by rw [pendingBytes_of_none (call.trans hc), List.append_nil]⟩

/-- The step of a hardware agent moves bytes along the line, and nothing else. -/
theorem hardwareSince_of_exec {s t : State} {x : Turn} {i : Instr} (hi : x.instr? = some i)
    (hx : x.isHardware = true) (h : exec i s = .next t) : HardwareSince s s.schedule t := by
  cases x with
  | master | reset | context => cases hx
  | txLoad => cases hi; exact hardwareSince_of_txLoad h
  | txDone => cases hi; exact hardwareSince_of_txDone h
  | rxArrive d => cases hi; exact hardwareSince_of_rxArrive h
  | modemChange => cases hi; obtain rfl := next_eq_next.mp h; exact .refl _ _

theorem HardwareSince.accepts {s t : State} {ts : List Turn} (h : HardwareSince s ts t) :
    Accepts (pendingBytes s) s t := by
  rw [← pendingBytes_congr h.call_eq h.params_eq]
  exact .of_same h.sent

theorem Turn.isHardware_of_instr? {x : Turn} {i : Instr} (hi : x.instr? = some i) (hr : x ≠ .reset) :
    x.isHardware = true := by
  cases x with
  | master | context => cases hi
  | reset => exact absurd rfl hr
  | txLoad | txDone | rxArrive | modemChange => rfl

/-- BAUDDIV and BIND leave what is still to be written as it is. -/
theorem accepts_of_unshared {s t : State} {i : Instr} (hi : (∃ c b, i = .bauddiv c b) ∨ ∃ base, i = .bind base)
    (h : exec i s = .next t) : Accepts (pendingBytes s) s t := by
  have quiet : firstPhase? i = none ∧ isAgentStep i = false ∧ requestedBytes s.params i = [] := by
    rcases hi with ⟨c, b, rfl⟩ | ⟨base, rfl⟩ <;> exact ⟨rfl, rfl, rfl⟩
  obtain ⟨first, agent, asks⟩ := quiet
  obtain ⟨call, sent⟩ := exec_of_register first agent h
  rw [← pendingBytes_congr call (effect_of_exec h).params_eq]
  exact .of_same (by rw [sent, asks, List.append_nil])

/-- What a step accepts is a beginning of what was still to be written and of what is newly asked for. -/
theorem step_accepts {s t : State} (h : step s = .next t) (hr : s.turn ≠ .reset) :
    Accepts (pendingBytes s ++ issuedBytes s) s t := by
  have after {asked : List Byte} (e : Accepts asked s.afterTurn t) : Accepts asked s t := by
    rwa [Accepts, sentStream_afterTurn] at e
  rcases step_cases h with ⟨i, hi, he⟩ | ⟨-, c, hc, he⟩ | ⟨hturn, hc, i, base, program, hf, he⟩ |
    ⟨-, c, i, -, hc, hi, he⟩ | ⟨hm, hc, hp, rfl⟩
  · rw [issuedBytes_of_none (issued?_of_agent hi), List.append_nil, ← pendingBytes_afterTurn]
    exact after (hardwareSince_of_exec hi (Turn.isHardware_of_instr? hi hr) he).accepts
  · rw [issuedBytes_of_none (issued?_of_call hc), List.append_nil, pendingBytes_of_some hc, ← s.afterTurn_params]
    exact after (accepts_of_inPhase (.inl (s.afterTurn_call.trans hc)) he)
  · rw [issuedBytes_of_some (issued?_of_fetch hturn hc hf), pendingBytes_of_none hc, List.nil_append,
      ← s.afterTurn_params]
    exact after (accepts_of_issued (s := (s.afterTurn.setProgram program).setBase base)
      (s.afterTurn_call.trans hc) (fetch_isAgentStep hturn hc hf) he)
  · rw [issuedBytes_of_none (issued?_of_call hc), List.append_nil, ← pendingBytes_afterTurn]
    exact after (accepts_of_unshared hi he)
  · rw [issuedBytes_of_none (issued?_of_idle hm hc hp), List.append_nil, ← pendingBytes_afterTurn]
    exact .of_same (sentStream_afterTurn s)

/-- Settles O41: what is accepted and what is left of the asked are one list, in order. -/
theorem sentBytesConserved : Obligations.SentBytesConserved := by
  unfold Obligations.SentBytesConserved
  intro s t h hr
  obtain ⟨out, sent, asked⟩ := step_accepts h hr
  exact ⟨by rw [sent, List.append_assoc, asked, List.append_assoc], sent ▸ List.prefix_append _ _⟩

/-- While an operation runs nothing new is asked for, so accepted and pending bytes stay the same list. -/
theorem run_conserves_sent {n : Nat} {s t : State} (hrun : run n s = .next t)
    (running : ∀ k < n, ∀ u, run k s = .next u → u.call ≠ none ∧ u.turn ≠ .reset) :
    sentStream t ++ pendingBytes t = sentStream s ++ pendingBytes s := by
  induction n generalizing s with
  | zero => obtain rfl := next_eq_next.mp hrun; rfl
  | succ n ih =>
    obtain ⟨u, hstep, hrun⟩ := run_succ_eq_next.mp hrun
    obtain ⟨busy, noReset⟩ := running 0 n.succ_pos s rfl
    obtain ⟨c, hc⟩ := Option.ne_none_iff_exists'.mp busy
    have first := (sentBytesConserved s u hstep noReset).1
    rw [issuedBytes_of_none (issued?_of_call hc), List.append_nil] at first
    rw [← first]
    exact ih hrun fun k hk v hv => running (k + 1) (by omega) v (run_succ_eq_next.mpr ⟨u, hstep, hv⟩)

/-- Settles O42: at the end nothing is pending. -/
theorem sendWritesExactlyItsBytes : Obligations.SendWritesExactlyItsBytes := by
  unfold Obligations.SendWritesExactlyItsBytes
  intro n s t c hc hrun ended running
  have conserved := run_conserves_sent hrun running
  rwa [pendingBytes_of_none ended, List.append_nil, pendingBytes_of_some hc] at conserved

end Sys2Proof.Machine
end

section
/-! The bytes received (spec/43_transfer.md R151, R156, spec/44_line_side.md R172, R177): only an arrival adds one, and
READ_BYTE moves the oldest from the FIFO to what it returned. -/

namespace Sys2Proof.Machine

/-- The operations that change what was received: a read of DR by address, an arrival, RESET. -/
def changesReceived : Instr → Bool
  | .rdDr | .rxArrive _ | .reset => true
  | _ => false

/-- But for these and READ_BYTE, no operation touches the receive FIFO or what was returned. -/
theorem Effect.keeps_received {s t : State} {i : Instr} (e : Effect s i t) (hi : changesReceived i = false)
    (hread : i ≠ .readByte) : t.returned = s.returned ∧ t.rxFifo = s.rxFifo := by
  cases e with
  | rdDr | rxArrive | reset => cases hi
  | pollByte | receive => exact absurd rfl hread
  | _ => exact ⟨rfl, rfl⟩

/-- With a byte queued when it reads DR, READ_BYTE returns the oldest byte, which stays in the stream (R151, R156). -/
theorem receivedStream_of_readByte {s t : State} (byte : s.call = some (.readByte .ACT) → s.rxFifo ≠ [])
    (h : exec .readByte s = .next t) : receivedStream t = receivedStream s := by
  obtain ⟨ph, hc, h⟩ := execReadByte_eq_next.mp h
  have h := (receivePhase_eq_next.mp h).2
  cases ph with
  | POLL => subst h; rfl
  | ACT =>
    subst h
    obtain ⟨d, rest, queued⟩ := List.exists_cons_of_ne_nil (byte (hc.resolve_left nofun))
    simp [receivedStream, State.dataReg_cons queued, queued]

/-- But for these operations, none changes what was received. -/
theorem receivedStream_of_exec {s t : State} {i : Instr} (byte : s.call = some (.readByte .ACT) → s.rxFifo ≠ [])
    (hi : changesReceived i = false) (h : exec i s = .next t) : receivedStream t = receivedStream s := by
  by_cases hread : i = .readByte
  · subst hread; exact receivedStream_of_readByte byte h
  · obtain ⟨returned, rxFifo⟩ := (effect_of_exec h).keeps_received hi hread
    rw [receivedStream, returned, rxFifo, receivedStream]

theorem Call.changesReceived_instr (c : Call) : changesReceived c.instr = false := by
  cases c <;> rfl

/-- Of the operations the software issues, only a read of DR changes what was received. -/
theorem changesReceived_of_software {i : Instr} (agent : isAgentStep i = false) (hrd : i ≠ .rdDr) :
    changesReceived i = false := by
  cases i with
  | rdDr => exact absurd rfl hrd
  | rxArrive | reset => cases agent
  | _ => rfl

@[simp] theorem receivedStream_afterTurn (s : State) : receivedStream s.afterTurn = receivedStream s := by
  simp [receivedStream]

/-- An arrival adds its byte at the end, or is lost (R172 to R174). -/
theorem receivedStream_of_arrival {s t : State} {d : Byte} (h : exec (.rxArrive d) s = .next t) :
    receivedStream t = receivedStream s ++ [d] ∨ receivedStream t = receivedStream s := by
  rcases execRxArrive_eq_next.mp h with ⟨-, rfl⟩ | ⟨-, -, -, rfl⟩ | ⟨-, -, -, rfl⟩
  · exact .inr rfl
  · exact .inr rfl
  · exact .inl (List.append_assoc _ _ _).symm

/-- A step that is no arrival, no reset and no read of DR by address leaves what was received. -/
theorem step_keeps_received {s t : State} (inv : Inv s) (h : step s = .next t) (hr : s.turn ≠ .reset)
    (harrive : ∀ d, s.turn ≠ .rxArrive d) (hrd : issued? s ≠ some .rdDr) : receivedStream t = receivedStream s := by
  rw [← receivedStream_afterTurn s]
  have byte := inv.afterTurn.read_byte
  rcases step_cases h with ⟨i, hi, he⟩ | ⟨-, c, -, he⟩ | ⟨hturn, hc, i, base, program, hf, he⟩ |
    ⟨-, -, i, -, -, hi, he⟩ | ⟨-, -, -, rfl⟩
  · cases hx : s.turn with
    | master | context => rw [hx] at hi; cases hi
    | rxArrive d => exact absurd hx (harrive d)
    | reset => exact absurd hx hr
    | txLoad | txDone | modemChange =>
      rw [hx] at hi; cases hi
      exact receivedStream_of_exec byte rfl he
  · exact receivedStream_of_exec byte c.changesReceived_instr he
  · rw [issued?_of_fetch hturn hc hf] at hrd
    exact receivedStream_of_exec (s := (s.afterTurn.setProgram program).setBase base) byte
      (changesReceived_of_software (fetch_isAgentStep hturn hc hf) (mt (congrArg some) hrd)) he
  · rcases hi with ⟨c, b, rfl⟩ | ⟨base, rfl⟩ <;> exact receivedStream_of_exec byte rfl he
  · rfl

/-- What is issued is issued between two operations. -/
theorem idle_of_issued? {s : State} {i : Instr} (h : issued? s = some i) : s.turn.instr? = none ∧ s.call = none := by
  constructor
  · by_contra busy
    obtain ⟨j, hj⟩ := Option.ne_none_iff_exists'.mp busy
    rw [issued?_of_agent hj] at h; cases h
  · by_contra busy
    obtain ⟨c, hc⟩ := Option.ne_none_iff_exists'.mp busy
    rw [issued?_of_call hc] at h; cases h

/-- A step that issues an operation runs it with the queues as they are. -/
theorem exec_of_issued? {s t : State} {i : Instr} (h : step s = .next t) (hi : issued? s = some i) :
    ∃ u, exec i u = .next t ∧ u.returned = s.returned ∧ u.rxFifo = s.rxFifo := by
  obtain ⟨hturn, hc⟩ := idle_of_issued? hi
  rcases step_cases h with ⟨j, hj, -⟩ | ⟨-, c, hc', -⟩ | ⟨-, -, j, base, program, hf, he⟩ |
    ⟨-, c, -, -, hc', -⟩ | ⟨hm, -, hp, -⟩
  · cases hturn.symm.trans hj
  · cases hc.symm.trans hc'
  · cases (issued?_of_fetch hturn hc hf).symm.trans hi
    exact ⟨_, he, s.afterTurn_returned, s.afterTurn_rxFifo⟩
  · cases hc.symm.trans hc'
  · cases (issued?_of_idle hm hc hp).symm.trans hi

/-- Settles O43: an arrival, a read of DR by address, and every other step. -/
theorem receivedBytesConserved : Obligations.ReceivedBytesConserved := by
  unfold Obligations.ReceivedBytesConserved
  intro s t inv h hr
  refine ⟨fun d hd => ?_, step_keeps_received inv h hr, fun hrd => ?_⟩
  · have he : exec (.rxArrive d) s.afterTurn = .next t := by rwa [← step_of_hardware (by rw [hd]; rfl)]
    rw [← receivedStream_afterTurn s]
    exact receivedStream_of_arrival he
  · obtain ⟨u, he, returned, rxFifo⟩ := exec_of_issued? h hrd
    obtain rfl := eq_of_withBase_next he
    exact ⟨returned, congrArg List.tail rxFifo⟩

end Sys2Proof.Machine
end

section
/-! Text (spec/43_transfer.md R153): the default encoding is Lean's UTF-8. -/

namespace Sys2Proof.Machine

/-- A code point is below 0x110000. -/
theorem char_toNat_lt (c : Char) : c.toNat < 0x110000 := by
  rcases c.valid with low | ⟨-, high⟩
  · exact Nat.lt_trans low (by decide)
  · exact high

/-- The model and Lean cut a code point into the same digits; Lean reduces the leading one, which is small enough in
each row of the table. -/
theorem utf8Char_eq (c : Char) : utf8Char c = (String.utf8EncodeChar c).map UInt8.toBitVec := by
  have bound := char_toNat_lt c
  unfold utf8Char String.utf8EncodeChar
  rw [show c.val.toNat = c.toNat from rfl]
  generalize c.toNat = n at bound
  dsimp only
  by_cases one : n < 0x80
  · rw [if_pos one, if_pos (by omega : n ≤ 127)]
    rfl
  rw [if_neg one, if_neg (by omega : ¬ n ≤ 127)]
  by_cases two : n < 0x800
  · rw [if_pos two, if_pos (by omega : n ≤ 2047)]
    have lead : 0xC0 + n / 0x40 = n / 64 % 32 + 192 := by omega
    simp only [lead, Nat.add_comm 0x80]
    rfl
  rw [if_neg two, if_neg (by omega : ¬ n ≤ 2047)]
  by_cases three : n < 0x10000
  · rw [if_pos three, if_pos (by omega : n ≤ 65535)]
    have lead : 0xE0 + n / 0x1000 = n / 4096 % 16 + 224 := by omega
    simp only [lead, Nat.add_comm 0x80]
    rfl
  · rw [if_neg three, if_neg (by omega : ¬ n ≤ 65535)]
    have lead : 0xF0 + n / 0x40000 = n / 262144 % 8 + 240 := by omega
    simp only [lead, Nat.add_comm 0x80]
    rfl

/-- Settles O36: the empty table leaves every character to UTF-8, and a text is a `flatMap`. -/
theorem textEncodingIsUtf8 : Obligations.TextEncodingIsUtf8 := by
  unfold Obligations.TextEncodingIsUtf8
  refine ⟨utf8Char_eq, fun c hc => if_pos hc, by decide, fun p s u => List.flatMap_append, fun p c => ?_⟩
  rw [Params.encode, encodeText, List.flatMap_singleton, encodeChar]
  cases p.encodeTable.lookup c <;> rfl

end Sys2Proof.Machine
end

section
/-! Poll loops (spec/43_transfer.md R150, R151, R157, spec/44_line_side.md R178): a running transfer meets hardware steps
and polls until its poll finds what it waits for. -/

namespace Sys2Proof.Machine

/-! ## Runs over a scheduled list of turns -/

/-- Turns that each answer and keep `P` run to their end. -/
theorem run_of_turns {P : List Turn → State → Prop} {good : Turn → Prop} {rest : List Turn}
    (answers : ∀ x ts s, good x → P (x :: ts) s → ∃ t, step s = .next t ∧ P ts t) {ts : List Turn}
    (hgood : ∀ x ∈ ts, good x) {s : State} (hs : P (ts ++ rest) s) : ∃ t, run ts.length s = .next t ∧ P rest t := by
  induction ts generalizing s with
  | nil => exact ⟨s, rfl, hs⟩
  | cons x ts ih =>
    obtain ⟨hx, hgood⟩ := List.forall_mem_cons.mp hgood
    obtain ⟨u, hstep, hu⟩ := answers x (ts ++ rest) s hx hs
    obtain ⟨t, hrun, ht⟩ := ih hgood hu
    exact ⟨t, run_succ_eq_next.mpr ⟨u, hstep, hrun⟩, ht⟩

/-- A step that finishes, or from which a run finishes. -/
theorem run_until_succ {finished : State → Prop} {n : Nat} {s u : State} (hstep : step s = .next u)
    (h : finished u ∨ ∃ k t, k ≤ n ∧ run k u = .next t ∧ finished t) :
    ∃ k t, k ≤ n + 1 ∧ run k s = .next t ∧ finished t := by
  rcases h with hu | ⟨k, t, hk, hrun, ht⟩
  · exact ⟨1, u, Nat.le_add_left 1 n, run_succ_eq_next.mpr ⟨u, hstep, rfl⟩, hu⟩
  · exact ⟨k + 1, t, Nat.succ_le_succ hk, run_succ_eq_next.mpr ⟨u, hstep, hrun⟩, ht⟩

/-- `Q need ts s` says that in `s`, with the turns `ts` to come, the turns `need` in this order bring `finished` about.
A turn answers, and either finishes or keeps what is needed, less itself where it is the next one needed. -/
theorem run_until_of_sublist {Q : List Turn → List Turn → State → Prop} {finished : State → Prop}
    (answers : ∀ need x ts s, x.isQuiet = true → Q need (x :: ts) s → ∃ t, step s = .next t)
    (skip : ∀ need x ts s t, x.isQuiet = true → Q need (x :: ts) s → step s = .next t → finished t ∨ Q need ts t)
    (take : ∀ need x ts s t, x.isQuiet = true → Q (x :: need) (x :: ts) s → step s = .next t →
      finished t ∨ Q need ts t)
    (last : ∀ ts s, ¬ Q [] ts s) {need ts : List Turn} (hsub : need.Sublist ts)
    (quiet : ∀ x ∈ ts, x.isQuiet = true) {s : State} (hs : Q need ts s) :
    ∃ n t, n ≤ ts.length ∧ run n s = .next t ∧ finished t := by
  induction hsub generalizing s with
  | slnil => exact absurd hs (last [] s)
  | cons x _ ih =>
    obtain ⟨hx, quiet⟩ := List.forall_mem_cons.mp quiet
    obtain ⟨u, hstep⟩ := answers _ x _ s hx hs
    exact run_until_succ hstep ((skip _ x _ s u hx hs hstep).imp_right (ih quiet))
  | cons_cons x _ ih =>
    obtain ⟨hx, quiet⟩ := List.forall_mem_cons.mp quiet
    obtain ⟨u, hstep⟩ := answers _ x _ s hx hs
    exact run_until_succ hstep ((take _ x _ s u hx hs hstep).imp_right (ih quiet))

/-! ## Polls and hardware steps -/

/-- `s` is `a` after hardware steps and polls of FR, its operation in phase `c`, with the turns `ts` still to come. -/
def PolledSince (a : State) (c : Call) (ts : List Turn) (s : State) : Prop :=
  ∃ v k, HardwareSince { a with readData := v, draws := k, call := some c } ts s

theorem PolledSince.refl {a : State} {c : Call} {ts : List Turn} (hc : a.call = some c) (hs : a.schedule = ts) :
    PolledSince a c ts a :=
  ⟨a.readData, a.draws, by rw [← hc]; exact hs ▸ .refl a a.schedule⟩

section
variable {a s t : State} {c : Call} {ts : List Turn} (h : PolledSince a c ts s)
include h

theorem PolledSince.frame : s = { a with
    schedule := ts, txFifo := s.txFifo, rxFifo := s.rxFifo, txShift := s.txShift, wireOut := s.wireOut
    readData := s.readData, draws := s.draws, call := some c } := by
  obtain ⟨v, k, since⟩ := h
  rw [since.frame]

theorem PolledSince.call_eq : s.call = some c := by rw [h.frame]
theorem PolledSince.schedule_eq : s.schedule = ts := by rw [h.frame]
theorem PolledSince.params_eq : s.params = a.params := by rw [h.frame]
theorem PolledSince.program_eq : s.program = a.program := by rw [h.frame]
theorem PolledSince.returned_eq : s.returned = a.returned := by rw [h.frame]
theorem PolledSince.cr_eq : s.cr = a.cr := by rw [h.frame]
theorem PolledSince.txCap_eq : s.txCap = a.txCap := by rw [h.frame]; rfl
theorem PolledSince.baseOk_eq : s.baseOk = a.baseOk := by rw [h.frame]; rfl
theorem PolledSince.rxEnabled_eq : s.rxEnabled = a.rxEnabled := by rw [h.frame]; rfl
theorem PolledSince.lineAdmitted_eq : s.lineAdmitted = a.lineAdmitted := by rw [h.frame]; rfl

theorem PolledSince.sent_eq : sentStream s = sentStream a := by
  obtain ⟨v, k, since⟩ := h
  exact since.sent

theorem PolledSince.hardware {us : List Turn} (since : HardwareSince s us t) : PolledSince a c us t := by
  obtain ⟨v, k, before⟩ := h
  exact ⟨v, k, before.trans since⟩

/-- A poll of FR is one more. -/
theorem PolledSince.poll (us : List Turn) (c' : Call) :
    PolledSince a c' us ({ s with schedule := us }.readFr.setCall (some c')) := by
  obtain ⟨v, k, since⟩ := h
  exact ⟨_, _, by rw [since.frame]; rfl, since.sent, since.tx_suffix, since.rx_prefix⟩

end

/-! ## One quiet turn -/

/-- A quiet turn is the bus master's or a hardware agent's. -/
theorem Turn.eq_master_or_isHardware {x : Turn} (h : x.isQuiet = true) : x = .master ∨ x.isHardware = true := by
  cases x with
  | master => exact .inl rfl
  | reset | context => cases h
  | txLoad | txDone | rxArrive | modemChange => exact .inr rfl

/-- The bus master's turn runs the phase its operation is in. -/
theorem exec_of_master_turn {s t : State} {c : Call} {ts : List Turn} (hs : s.schedule = .master :: ts)
    (hc : s.call = some c) (h : step s = .next t) : exec c.instr { s with schedule := ts } = .next t :=
  (step_of_scheduled_call hs hc).symm.trans h

/-- A hardware turn runs its agent's step. -/
theorem exec_of_hardware_turn {s t : State} {x : Turn} {ts : List Turn} (hs : s.schedule = x :: ts)
    (hx : x.isHardware = true) (h : step s = .next t) :
    ∃ i, x.instr? = some i ∧ exec i { s with schedule := ts } = .next t := by
  cases x with
  | master | reset | context => cases hx
  | txLoad | txDone | rxArrive | modemChange => exact ⟨_, rfl, (step_of_scheduled_hardware hs rfl).symm.trans h⟩

/-- R176 does not refuse the turn `x`: the line side runs in an admitted configuration, or not at all. -/
def State.ServesTurn (s : State) (x : Turn) : Prop :=
  (x = .txLoad → s.txLoadEnabled = false ∨ s.lineAdmitted = true) ∧
    ∀ d, x = .rxArrive d → s.rxEnabled = false ∨ s.lineAdmitted = true

theorem hardware_turn_answers {s : State} {x : Turn} {ts : List Turn} (hs : s.schedule = x :: ts)
    (hx : x.isHardware = true) (serves : s.ServesTurn x) : ∃ t, step s = .next t := by
  obtain ⟨load, arrive⟩ := serves
  by_cases admitted : s.lineAdmitted = true
  · exact hardware_step_answers hs hx admitted
  cases x with
  | master | reset | context => cases hx
  | txLoad =>
    have off := (load rfl).resolve_right admitted
    exact ⟨_, (step_of_scheduled_hardware hs rfl).trans (execTxLoad_eq_next.mpr (.inl ⟨off, rfl⟩))⟩
  | rxArrive d =>
    have off := (arrive d rfl).resolve_right admitted
    exact ⟨_, (step_of_scheduled_hardware hs rfl).trans (execRxArrive_eq_next.mpr (.inl ⟨off, rfl⟩))⟩
  | txDone =>
    rw [step_of_scheduled_hardware hs rfl, exec, execTxDone]
    split <;> exact ⟨_, rfl⟩
  | modemChange => exact ⟨_, step_of_scheduled_hardware hs rfl⟩

/-- A hardware turn leaves the transmit FIFO and loads no byte into the shifter, or TX_LOAD takes the oldest. -/
theorem hardware_transmits {s t : State} {x : Turn} {ts : List Turn} (hs : s.schedule = x :: ts)
    (hx : x.isHardware = true) (h : step s = .next t) :
    (t.txFifo = s.txFifo ∧ (s.txShift = none → t.txShift = none)) ∨
      (s.txLoadEnabled = true ∧ ∃ b, s.txFifo = b :: t.txFifo) := by
  obtain ⟨i, hi, he⟩ := exec_of_hardware_turn hs hx h
  cases x with
  | master | reset | context => cases hx
  | txLoad =>
    cases hi
    rcases execTxLoad_eq_next.mp he with ⟨-, rfl⟩ | ⟨on, -, b, rest, queued, rfl⟩
    · exact .inl ⟨rfl, id⟩
    · exact .inr ⟨on, b, queued⟩
  | txDone =>
    cases hi
    rcases execTxDone_eq_next.mp he with ⟨-, rfl⟩ | ⟨b, -, rfl⟩
    · exact .inl ⟨rfl, id⟩
    · exact .inl ⟨rfl, fun _ => rfl⟩
  | rxArrive d =>
    cases hi
    rcases execRxArrive_eq_next.mp he with ⟨-, rfl⟩ | ⟨-, -, -, rfl⟩ | ⟨-, -, -, rfl⟩ <;> exact .inl ⟨rfl, id⟩
  | modemChange => cases hi; obtain rfl := next_eq_next.mp he; exact .inl ⟨rfl, id⟩

end Sys2Proof.Machine
end

section
/-! Polls that never end (spec/43_transfer.md R157, R194, R219): while the transmitter is disabled nothing leaves a full
FIFO, and while nothing is received an empty one stays empty. -/

namespace Sys2Proof.Machine

/-- The transmitter is not enabled (R170). -/
def State.TxDisabled (s : State) : Prop :=
  s.cr.getLsbD s.params.layout.cr.uarten = false ∨ s.cr.getLsbD s.params.layout.cr.txe = false

theorem State.txLoadEnabled_of_disabled {s : State} (h : s.TxDisabled) : s.txLoadEnabled = false := by
  rw [Bool.eq_false_iff, ne_eq, State.txLoadEnabled_iff]
  rintro ⟨uarten, txe, -⟩
  rcases h with off | off
  · exact Bool.false_ne_true (off.symm.trans uarten)
  · exact Bool.false_ne_true (off.symm.trans txe)

theorem PolledSince.txDisabled {a s : State} {c : Call} {ts : List Turn} (h : PolledSince a c ts s)
    (off : a.TxDisabled) : s.TxDisabled := by
  rw [State.TxDisabled, h.cr_eq, h.params_eq]
  exact off

/-- With the transmitter disabled no hardware step touches the transmit FIFO. -/
theorem hardware_keeps_txFifo {s t : State} {x : Turn} {ts : List Turn} (hs : s.schedule = x :: ts)
    (hx : x.isHardware = true) (off : s.TxDisabled) (h : step s = .next t) : t.txFifo = s.txFifo := by
  rcases hardware_transmits hs hx h with ⟨same, -⟩ | ⟨on, -⟩
  · exact same
  · exact absurd on (Bool.eq_false_iff.mp (State.txLoadEnabled_of_disabled off))

/-- With the transmitter disabled and the FIFO full, a send that polls polls again, whatever turn comes. -/
theorem send_polls_on {a s : State} {c : Call} {b : Byte} {left : List Byte} {x : Turn} {ts : List Turn}
    (hb : a.baseOk = true) (hp : c.pending a.params = b :: left) (polls : c.polls = true)
    (full : a.txFifo.length = a.txCap) (off : a.TxDisabled) (quiet : x.isQuiet = true)
    (serves : ∀ d, x = .rxArrive d → a.rxEnabled = false ∨ a.lineAdmitted = true)
    (since : PolledSince a c (x :: ts) s) (same : s.txFifo = a.txFifo) :
    ∃ t, step s = .next t ∧ PolledSince a c ts t ∧ t.txFifo = a.txFifo := by
  rcases Turn.eq_master_or_isHardware quiet with rfl | hx
  · have txff : State.txff { s with schedule := ts } = true := by
      rw [State.txff_iff]
      exact (congrArg List.length same).trans (full.trans since.txCap_eq.symm)
    have hexec := exec_send_poll (s := { s with schedule := ts }) (since.baseOk_eq.trans hb) (.inl since.call_eq)
      (since.params_eq ▸ hp) (Call.aboutToWrite_of_polls polls)
    rw [txff, if_pos rfl] at hexec
    exact ⟨_, (step_of_scheduled_call since.schedule_eq since.call_eq).trans hexec, since.poll ts c, same⟩
  · have off := since.txDisabled off
    have serves : s.ServesTurn x :=
      ⟨fun _ => .inl (State.txLoadEnabled_of_disabled off), by
        rw [since.rxEnabled_eq, since.lineAdmitted_eq]; exact serves⟩
    obtain ⟨t, hstep⟩ := hardware_turn_answers since.schedule_eq hx serves
    exact ⟨t, hstep, since.hardware (hardwareSince_of_step since.schedule_eq hx hstep),
      (hardware_keeps_txFifo since.schedule_eq hx off hstep).trans same⟩

/-- Where no arrival is received, no hardware step touches the receive FIFO. -/
theorem hardware_keeps_rxFifo {s t : State} {x : Turn} {ts : List Turn} (hs : s.schedule = x :: ts)
    (hx : x.isHardware = true) (lost : ∀ d, x = .rxArrive d → s.rxEnabled = false) (h : step s = .next t) :
    t.rxFifo = s.rxFifo := by
  obtain ⟨i, hi, he⟩ := exec_of_hardware_turn hs hx h
  cases x with
  | master | reset | context => cases hx
  | txLoad | txDone | modemChange => cases hi; exact ((effect_of_exec he).keeps_received rfl nofun).2
  | rxArrive d =>
    cases hi
    have off : State.rxEnabled { s with schedule := ts } = false := lost d rfl
    rcases execRxArrive_eq_next.mp he with ⟨-, rfl⟩ | ⟨on, -⟩ | ⟨on, -⟩
    · rfl
    · exact absurd (off.symm.trans on) Bool.false_ne_true
    · exact absurd (off.symm.trans on) Bool.false_ne_true

/-- With the receive FIFO empty and nothing received, READ_BYTE polls again, whatever turn comes. -/
theorem receive_polls_on {a s : State} {x : Turn} {ts : List Turn} (hb : a.baseOk = true) (quiet : x.isQuiet = true)
    (lost : ∀ d, x = .rxArrive d → a.rxEnabled = false)
    (serves : x = .txLoad → a.TxDisabled ∨ a.lineAdmitted = true)
    (since : PolledSince a (.readByte .POLL) (x :: ts) s) (empty : s.rxFifo = []) :
    ∃ t, step s = .next t ∧ PolledSince a (.readByte .POLL) ts t ∧ t.rxFifo = [] := by
  rcases Turn.eq_master_or_isHardware quiet with rfl | hx
  · have rxfe : State.rxfe { s with schedule := ts } = true := by
      rw [State.rxfe_iff]
      exact congrArg List.length empty
    have hexec := (exec_readByte_of_inPhase (s := { s with schedule := ts }) (.inl since.call_eq)).trans
      (receivePhase_poll (since.baseOk_eq.trans hb))
    rw [rxfe, if_pos rfl] at hexec
    exact ⟨_, (step_of_scheduled_call since.schedule_eq since.call_eq).trans hexec, since.poll ts _, empty⟩
  · have lost : ∀ d, x = .rxArrive d → s.rxEnabled = false := since.rxEnabled_eq ▸ lost
    have serves : s.ServesTurn x :=
      ⟨fun load => (serves load).imp (fun off => State.txLoadEnabled_of_disabled (since.txDisabled off))
        since.lineAdmitted_eq.trans, fun d hd => .inl (lost d hd)⟩
    obtain ⟨t, hstep⟩ := hardware_turn_answers since.schedule_eq hx serves
    exact ⟨t, hstep, since.hardware (hardwareSince_of_step since.schedule_eq hx hstep),
      (hardware_keeps_rxFifo since.schedule_eq hx lost hstep).trans empty⟩

theorem not_mem_of_arrivals_eq_nil {ts : List Turn} (h : arrivals ts = []) (d : Byte) : .rxArrive d ∉ ts :=
  fun hmem => by cases List.filterMap_eq_nil_iff.mp h _ hmem

/-- Settles O45: every turn of the schedule answers and leaves the poll where it was. -/
theorem pollLoopsMayNeverEnd : Obligations.PollLoopsMayNeverEnd := by
  unfold Obligations.PollLoopsMayNeverEnd
  refine ⟨fun s c ts rest send inv hb hc full off hs quiet arrive => ?_,
    fun s ts rest inv hb hc empty hs quiet arrive load => ?_⟩
  · obtain ⟨polls, noInit, noRead⟩ :
        c.polls = true ∧ (∀ k b ph, c ≠ .init k b ph) ∧ ∀ ph, c ≠ .readByte ph := by
      rcases send with ⟨b, rfl⟩ | ⟨bytes, n, rfl⟩ | ⟨text, n, rfl⟩ <;> exact ⟨rfl, nofun, nofun⟩
    obtain ⟨b, left, hp⟩ := Call.pending_of_wf (inv.call_wf c hc) noInit noRead
    have serves : ∀ x ∈ ts, x.isQuiet = true ∧ ∀ d, x = .rxArrive d → s.rxEnabled = false ∨ s.lineAdmitted = true :=
      fun x hx => ⟨quiet x hx, by
        rintro d rfl; exact arrive.resolve_left fun none_arrives => not_mem_of_arrivals_eq_nil none_arrives d hx⟩
    obtain ⟨t, hrun, since, same⟩ := run_of_turns
      (P := fun us u => PolledSince s c us u ∧ u.txFifo = s.txFifo)
      (fun x us u hx hu => send_polls_on hb hp polls full off hx.1 hx.2 hu.1 hu.2) serves ⟨.refl hc hs, rfl⟩
    exact ⟨t, hrun, since.call_eq, same, since.program_eq, since.schedule_eq⟩
  · have serves : ∀ x ∈ ts, x.isQuiet = true ∧ (∀ d, x = .rxArrive d → s.rxEnabled = false) ∧
        (x = .txLoad → s.TxDisabled ∨ s.lineAdmitted = true) := fun x hx => by
      refine ⟨quiet x hx, ?_, ?_⟩
      · rintro d rfl; exact arrive.resolve_left fun none_arrives => not_mem_of_arrivals_eq_nil none_arrives d hx
      · rintro rfl; exact or_assoc.mpr (load.resolve_left (absurd hx))
    obtain ⟨t, hrun, since, still⟩ := run_of_turns
      (P := fun us u => PolledSince s (.readByte .POLL) us u ∧ u.rxFifo = [])
      (fun x us u hx hu => receive_polls_on hb hx.1 hx.2.1 hx.2.2 hu.1 hu.2) serves ⟨.refl hc hs, empty⟩
    exact ⟨t, hrun, since.call_eq, still, since.returned_eq, since.program_eq, since.schedule_eq⟩

end Sys2Proof.Machine
end

section
/-! Transfers that end (spec/43_transfer.md R151, R157, spec/44_line_side.md R178): the turns a transfer still needs, and
what each of them finds. -/

namespace Sys2Proof.Machine

theorem HardwareSince.txCap_eq {a s : State} {ts : List Turn} (h : HardwareSince a ts s) : s.txCap = a.txCap := by
  rw [h.frame]; rfl

/-- A step keeps the invariants (O56). -/
theorem Inv.step {s t : State} (h : Inv s) (hstep : step s = .next t) : Inv t :=
  stepKeepsInvariant s t h hstep

/-- In an admitted configuration and on a good BASE, a quiet turn answers while a transfer runs. -/
theorem quiet_turn_answers {s : State} {c : Call} {x : Turn} {ts : List Turn} (inv : Inv s) (hb : s.baseOk = true)
    (admitted : s.lineAdmitted = true) (hc : s.call = some c) (transfer : ∀ k b, c ≠ .init k b .I2)
    (hs : s.schedule = x :: ts) (quiet : x.isQuiet = true) : ∃ t, step s = .next t := by
  rcases Turn.eq_master_or_isHardware quiet with rfl | hx
  · obtain ⟨t, he, -⟩ :=
      runningCallsNeverRefused { s with schedule := ts } c (inv.bookkeeping _ _ _ _) hb hc transfer
    exact ⟨t, (step_of_scheduled_call hs hc).trans he⟩
  · exact hardware_step_answers hs hx admitted

/-! ## WRITE_BYTE: first the shifter is to empty, then the FIFO to have room -/

/-- The transmit FIFO has room, or TX_LOAD is to make it. -/
def State.Draining (s : State) : Prop := s.txShift = none ∨ s.txFifo.length < s.txCap

/-- The turns that WRITE_BYTE still needs in a state. -/
inductive WriteNeeds (b : Byte) (s : State) : List Turn → Prop where
  | drain : WriteNeeds b s [.txDone, .txLoad, .master, .master]
  | load (draining : s.Draining) : WriteNeeds b s [.txLoad, .master, .master]
  | poll (room : s.txFifo.length < s.txCap) : WriteNeeds b s [.master, .master]
  | act (found : s.call = some (.writeByte b .ACT)) : WriteNeeds b s [.master]

theorem room_of_hardware {s t : State} {ts : List Turn} (since : HardwareSince s ts t)
    (room : s.txFifo.length < s.txCap) : t.txFifo.length < t.txCap := by
  rw [since.txCap_eq]
  exact Nat.lt_of_le_of_lt since.tx_suffix.length_le room

theorem txShift_of_txDone {s t : State} (h : exec .txDone s = .next t) : t.txShift = none := by
  rcases execTxDone_eq_next.mp h with ⟨empty, rfl⟩ | ⟨b, -, rfl⟩
  · exact empty
  · rfl

/-- A FIFO within its capacity that loses a byte has room. -/
theorem room_of_txFifo_cons {s t : State} {b : Byte} (fits : s.txFifo.length ≤ s.txCap) (cap : t.txCap = s.txCap)
    (queued : s.txFifo = b :: t.txFifo) : t.txFifo.length < t.txCap := by
  rw [cap]
  rwa [queued] at fits

theorem draining_of_hardware {s t : State} {x : Turn} {ts : List Turn} (inv : Inv s) (hs : s.schedule = x :: ts)
    (hx : x.isHardware = true) (h : step s = .next t) (draining : s.Draining) : t.Draining := by
  have moved := hardwareSince_of_step hs hx h
  rcases hardware_transmits hs hx h with ⟨-, shifter⟩ | ⟨-, b, queued⟩
  · exact draining.imp shifter (room_of_hardware moved)
  · exact .inr (room_of_txFifo_cons inv.fits.txFifo_le moved.txCap_eq queued)

/-- With the transmitter enabled, TX_LOAD finds room or makes it: a FIFO without room is not empty (R28). -/
theorem room_of_txLoad {s t : State} (inv : Inv s) (uarten : s.cr.getLsbD s.params.layout.cr.uarten = true)
    (txe : s.cr.getLsbD s.params.layout.cr.txe = true) (draining : s.Draining) (h : exec .txLoad s = .next t) :
    t.txFifo.length < t.txCap := by
  rcases execTxLoad_eq_next.mp h with ⟨off, rfl⟩ | ⟨-, -, b, rest, queued, rfl⟩
  · have pos := State.txCap_pos inv.txDepth_pos
    by_contra full
    have queued : t.txFifo ≠ [] := by
      intro empty
      rw [empty] at full
      exact full pos
    exact Bool.false_ne_true (off.symm.trans
      (State.txLoadEnabled_iff.mpr ⟨uarten, txe, draining.resolve_right full, queued⟩))
  · exact room_of_txFifo_cons inv.fits.txFifo_le rfl queued

/-- WRITE_BYTE of `b` runs since `a` and needs the turns `need`, with the turns `ts` and then `rest` to come. -/
structure Writing (a : State) (b : Byte) (rest need ts : List Turn) (s : State) : Prop where
  inv : Inv s
  since : ∃ ph, PolledSince a (.writeByte b ph) (ts ++ rest) s
  needs : WriteNeeds b s need

/-- WRITE_BYTE of `b` is done, and `b` was accepted once. -/
def Wrote (a : State) (b : Byte) (t : State) : Prop := t.call = none ∧ sentStream t = sentStream a ++ [b]

section
variable {a s t : State} {b : Byte} {rest need ts : List Turn}

/-- On the bus master's turn the byte is written, or a poll changes nothing that is needed and sees any room. -/
theorem Writing.master (w : Writing a b rest need (.master :: ts) s) (h : step s = .next t) :
    Wrote a b t ∨ (Writing a b rest need ts t ∧
      (s.txFifo.length < s.txCap → t.call = some (.writeByte b .ACT)) ∧ s.call ≠ some (.writeByte b .ACT)) := by
  obtain ⟨ph, since⟩ := w.since
  have inv := w.inv.step h
  have hexec := (exec_writeByte_of_inPhase (s := { s with schedule := ts ++ rest }) (.inl since.call_eq)).symm.trans
    (exec_of_master_turn since.schedule_eq since.call_eq h)
  have phase := (sendPhase_eq_next.mp hexec).2
  cases ph with
  | ACT =>
    obtain ⟨-, rfl⟩ := phase
    exact .inl ⟨rfl, (sentStream_push s b).trans (by rw [since.sent_eq])⟩
  | POLL =>
    subst phase
    have polling : s.call ≠ some (.writeByte b .ACT) := by rw [since.call_eq]; nofun
    refine .inr ⟨⟨inv, ⟨_, since.poll (ts ++ rest) _⟩, ?_⟩, fun room => ?_, polling⟩
    · cases w.needs with
      | drain => exact .drain
      | load draining => exact .load draining
      | poll room => exact .poll room
      | act found => exact absurd found polling
    · have notFull : State.txff { s with schedule := ts ++ rest } = false := by
        rw [Bool.eq_false_iff, ne_eq, State.txff_iff]
        exact Nat.ne_of_lt room
      rw [notFull]
      rfl

theorem Writing.hardware {x : Turn} (hx : x.isHardware = true) (w : Writing a b rest need (x :: ts) s)
    (h : step s = .next t) : Writing a b rest need ts t := by
  obtain ⟨ph, since⟩ := w.since
  have moved := hardwareSince_of_step since.schedule_eq hx h
  refine ⟨w.inv.step h, ⟨ph, since.hardware moved⟩, ?_⟩
  cases w.needs with
  | drain => exact .drain
  | load draining => exact .load (draining_of_hardware w.inv since.schedule_eq hx h draining)
  | poll room => exact .poll (room_of_hardware moved room)
  | act found => exact .act (moved.call_eq.trans found)

theorem Writing.skip {x : Turn} (quiet : x.isQuiet = true) (w : Writing a b rest need (x :: ts) s)
    (h : step s = .next t) : Wrote a b t ∨ Writing a b rest need ts t := by
  rcases Turn.eq_master_or_isHardware quiet with rfl | hx
  · exact (w.master h).imp_right And.left
  · exact .inr (w.hardware hx h)

/-- The next turn needed does what it is needed for. -/
theorem Writing.take (uarten : a.cr.getLsbD a.params.layout.cr.uarten = true)
    (txe : a.cr.getLsbD a.params.layout.cr.txe = true) {x : Turn} (w : Writing a b rest (x :: need) (x :: ts) s)
    (h : step s = .next t) : Wrote a b t ∨ Writing a b rest need ts t := by
  obtain ⟨inv, ⟨ph, since⟩, needs⟩ := id w
  have hs := since.schedule_eq
  cases needs with
  | drain =>
    have he := (step_of_scheduled_hardware hs rfl).symm.trans h
    exact .inr { w.hardware rfl h with needs := .load (.inl (txShift_of_txDone he)) }
  | load draining =>
    have he := (step_of_scheduled_hardware hs rfl).symm.trans h
    have inv : Inv { s with schedule := ts ++ rest } := inv.bookkeeping _ _ _ _
    rw [← since.cr_eq, ← since.params_eq] at uarten txe
    exact .inr { w.hardware rfl h with needs := .poll (room_of_txLoad inv uarten txe draining he) }
  | poll room => exact (w.master h).imp_right fun ⟨w', found, _⟩ => { w' with needs := .act (found room) }
  | act found => exact (w.master h).imp_right fun ⟨_, _, polling⟩ => absurd found polling

end

/-- Settles O44: TX_DONE empties the shifter, TX_LOAD makes room, a poll sees it and a write takes it. -/
theorem writeByteEndsUnderFairTurns : Obligations.WriteByteEndsUnderFairTurns := by
  unfold Obligations.WriteByteEndsUnderFairTurns
  intro a b ph ts rest inv hb hc hs quiet uarten txe admitted hsub
  have answers (need : List Turn) (x : Turn) (us : List Turn) (s : State) (hx : x.isQuiet = true)
      (w : Writing a b rest need (x :: us) s) : ∃ t, step s = .next t := by
    obtain ⟨ph, since⟩ := w.since
    exact quiet_turn_answers w.inv (since.baseOk_eq.trans hb) (since.lineAdmitted_eq.trans admitted) since.call_eq nofun
      since.schedule_eq hx
  exact run_until_of_sublist answers (fun _ _ _ _ _ hx w h => w.skip hx h)
    (fun _ _ _ _ _ _ w h => w.take uarten txe h) (fun _ _ w => nomatch w.needs) hsub quiet
    ⟨inv, ⟨ph, .refl hc hs⟩, .drain⟩

/-! ## READ_BYTE: first the FIFO is to hold a byte -/

/-- The turns that READ_BYTE still needs in a state, the arrival of `d` among them. -/
inductive ReadNeeds (d : Byte) (s : State) : List Turn → Prop where
  | arrival : ReadNeeds d s [.rxArrive d, .master, .master]
  | poll (queued : s.rxFifo ≠ []) : ReadNeeds d s [.master, .master]
  | act (found : s.call = some (.readByte .ACT)) : ReadNeeds d s [.master]

/-- An enabled arrival is queued, or finds a full FIFO (R172, R173). -/
theorem rxFifo_of_arrival {s t : State} {d : Byte} (enabled : s.rxEnabled = true) (h : exec (.rxArrive d) s = .next t) :
    t.rxFifo = s.rxFifo ++ [d] ∨ (s.rxCap ≤ s.rxFifo.length ∧ t.rxFifo = s.rxFifo) := by
  rcases execRxArrive_eq_next.mp h with ⟨off, -⟩ | ⟨-, -, full, rfl⟩ | ⟨-, -, -, rfl⟩
  · exact absurd (off.symm.trans enabled) Bool.false_ne_true
  · exact .inr ⟨full, rfl⟩
  · exact .inl rfl

theorem rxFifo_ne_nil_of_full {s : State} (inv : Inv s) (full : s.rxCap ≤ s.rxFifo.length) : s.rxFifo ≠ [] := by
  have pos := State.rxCap_pos inv.rxDepth_pos
  intro empty
  rw [empty] at full
  exact absurd (pos.trans full) (by decide)

/-- With the receiver enabled, the oldest of the bytes queued and to come stays the oldest: an arrival is lost only
behind a queued byte. -/
theorem oldest_of_hardware {s t : State} {x : Turn} {ts us : List Turn} (inv : Inv s) (hs : s.schedule = x :: us)
    (hx : x.isHardware = true) (enabled : s.rxEnabled = true) (h : step s = .next t) :
    (t.rxFifo ++ arrivals ts).head? = (s.rxFifo ++ arrivals (x :: ts)).head? := by
  obtain ⟨i, hi, he⟩ := exec_of_hardware_turn hs hx h
  cases x with
  | master | reset | context => cases hx
  | txLoad | txDone | modemChange =>
    cases hi
    rw [((effect_of_exec he).keeps_received rfl nofun).2]
    rfl
  | rxArrive d =>
    cases hi
    have arrives : arrivals (.rxArrive d :: ts) = d :: arrivals ts := rfl
    rcases rxFifo_of_arrival (s := { s with schedule := us }) enabled he with queued | ⟨full, same⟩
    · rw [queued, arrives, List.append_assoc]; rfl
    · have queued : s.rxFifo ≠ [] := rxFifo_ne_nil_of_full inv full
      rw [same, List.head?_append_of_ne_nil _ queued, List.head?_append_of_ne_nil _ queued]

/-- After an enabled arrival a byte is queued. -/
theorem queued_of_arrival {s t : State} {d : Byte} (inv : Inv s) (enabled : s.rxEnabled = true)
    (h : exec (.rxArrive d) s = .next t) : t.rxFifo ≠ [] := by
  rcases rxFifo_of_arrival enabled h with queued | ⟨full, same⟩
  · rw [queued]; exact List.append_ne_nil_of_right_ne_nil _ (List.cons_ne_nil d [])
  · rw [same]; exact rxFifo_ne_nil_of_full inv full

/-- READ_BYTE runs since `a` and needs the turns `need`, with the turns `ts` and then `rest` to come; `oldest` is the
oldest of the bytes queued and to come. -/
structure Reading (a : State) (d : Byte) (oldest : Option Byte) (rest need ts : List Turn) (s : State) : Prop where
  inv : Inv s
  since : ∃ ph, PolledSince a (.readByte ph) (ts ++ rest) s
  oldest_eq : (s.rxFifo ++ arrivals ts).head? = oldest
  needs : ReadNeeds d s need

/-- READ_BYTE is done and returned the byte `oldest`. -/
def Returned (a : State) (oldest : Option Byte) (t : State) : Prop :=
  t.call = none ∧ ∃ x, t.returned = a.returned ++ [x] ∧ oldest = some x

section
variable {a s t : State} {d : Byte} {oldest : Option Byte} {rest need ts : List Turn}

/-- On the bus master's turn the oldest byte is returned, or a poll changes nothing that is needed and sees any byte. -/
theorem Reading.master (r : Reading a d oldest rest need (.master :: ts) s) (h : step s = .next t) :
    Returned a oldest t ∨ (Reading a d oldest rest need ts t ∧
      (s.rxFifo ≠ [] → t.call = some (.readByte .ACT)) ∧ s.call ≠ some (.readByte .ACT)) := by
  obtain ⟨ph, since⟩ := r.since
  have inv := r.inv.step h
  have hexec := (exec_readByte_of_inPhase (s := { s with schedule := ts ++ rest }) (.inl since.call_eq)).symm.trans
    (exec_of_master_turn since.schedule_eq since.call_eq h)
  have phase := (receivePhase_eq_next.mp hexec).2
  cases ph with
  | ACT =>
    subst phase
    obtain ⟨x, left, queued⟩ := List.exists_cons_of_ne_nil (r.inv.read_byte since.call_eq)
    have read : (State.dataReg { s with schedule := ts ++ rest }).data = x := by
      rw [State.dataReg_cons (s := { s with schedule := ts ++ rest }) queued]
    have oldest_eq := r.oldest_eq
    rw [queued] at oldest_eq
    exact .inl ⟨rfl, x, congrArg₂ (fun before byte => before ++ [byte]) since.returned_eq read, oldest_eq.symm⟩
  | POLL =>
    subst phase
    have polling : s.call ≠ some (.readByte .ACT) := by rw [since.call_eq]; nofun
    refine .inr ⟨⟨inv, ⟨_, since.poll (ts ++ rest) _⟩, r.oldest_eq, ?_⟩, fun queued => ?_, polling⟩
    · cases r.needs with
      | arrival => exact .arrival
      | poll queued => exact .poll queued
      | act found => exact absurd found polling
    · have notEmpty : State.rxfe { s with schedule := ts ++ rest } = false := by
        rw [Bool.eq_false_iff, ne_eq, State.rxfe_iff, List.length_eq_zero_iff]
        exact queued
      rw [notEmpty]
      rfl

theorem Reading.hardware (enabled : a.rxEnabled = true) {x : Turn} (hx : x.isHardware = true)
    (r : Reading a d oldest rest need (x :: ts) s) (h : step s = .next t) : Reading a d oldest rest need ts t := by
  obtain ⟨ph, since⟩ := r.since
  have moved := hardwareSince_of_step since.schedule_eq hx h
  have enabled := since.rxEnabled_eq.trans enabled
  refine ⟨r.inv.step h, ⟨ph, since.hardware moved⟩,
    (oldest_of_hardware r.inv since.schedule_eq hx enabled h).trans r.oldest_eq, ?_⟩
  cases r.needs with
  | arrival => exact .arrival
  | poll queued => exact .poll (moved.rx_prefix.ne_nil queued)
  | act found => exact .act (moved.call_eq.trans found)

theorem Reading.skip (enabled : a.rxEnabled = true) {x : Turn} (quiet : x.isQuiet = true)
    (r : Reading a d oldest rest need (x :: ts) s) (h : step s = .next t) :
    Returned a oldest t ∨ Reading a d oldest rest need ts t := by
  rcases Turn.eq_master_or_isHardware quiet with rfl | hx
  · exact (r.master h).imp_right And.left
  · exact .inr (r.hardware enabled hx h)

/-- The next turn needed does what it is needed for. -/
theorem Reading.take (enabled : a.rxEnabled = true) {x : Turn}
    (r : Reading a d oldest rest (x :: need) (x :: ts) s) (h : step s = .next t) :
    Returned a oldest t ∨ Reading a d oldest rest need ts t := by
  obtain ⟨inv, ⟨ph, since⟩, -, needs⟩ := id r
  cases needs with
  | arrival =>
    have he := (step_of_scheduled_hardware since.schedule_eq rfl).symm.trans h
    have inv : Inv { s with schedule := ts ++ rest } := inv.bookkeeping _ _ _ _
    have queued := queued_of_arrival inv (since.rxEnabled_eq.trans enabled) he
    exact .inr { r.hardware enabled rfl h with needs := .poll queued }
  | poll queued => exact (r.master h).imp_right fun ⟨r', found, _⟩ => { r' with needs := .act (found queued) }
  | act found => exact (r.master h).imp_right fun ⟨_, _, polling⟩ => absurd found polling

end

/-- Settles O46: the arrival is queued or finds a byte queued, a poll sees it and a read returns the oldest. -/
theorem readByteEndsOnArrival : Obligations.ReadByteEndsOnArrival := by
  unfold Obligations.ReadByteEndsOnArrival
  intro a d ph ts rest inv hb hc hs quiet uarten rxe admitted hsub
  have enabled : a.rxEnabled = true := Bool.and_eq_true_iff.mpr ⟨uarten, rxe⟩
  have answers (need : List Turn) (x : Turn) (us : List Turn) (s : State) (hx : x.isQuiet = true)
      (r : Reading a d (a.rxFifo ++ arrivals ts).head? rest need (x :: us) s) : ∃ t, step s = .next t := by
    obtain ⟨ph, since⟩ := r.since
    exact quiet_turn_answers r.inv (since.baseOk_eq.trans hb) (since.lineAdmitted_eq.trans admitted) since.call_eq nofun
      since.schedule_eq hx
  obtain ⟨n, t, hn, hrun, ended, x, returned, oldest⟩ := run_until_of_sublist answers
    (fun _ _ _ _ _ hx r h => r.skip enabled hx h) (fun _ _ _ _ _ _ r h => r.take enabled h)
    (fun _ _ r => nomatch r.needs) hsub quiet ⟨inv, ⟨ph, .refl hc hs⟩, rfl, .arrival⟩
  exact ⟨n, t, x, hn, hrun, ended, returned, oldest⟩

end Sys2Proof.Machine
end

section
/-! The steps of the line (spec/44_line_side.md R170 to R176), each outcome by its guard, and which configurations are
admitted. -/

namespace Sys2Proof.Machine

/-! ## TX_LOAD, TX_DONE, RX_ARRIVE (R170 to R174) -/

theorem execTxLoad_of_refused {s : State} (enabled : s.txLoadEnabled = true) (refused : s.lineAdmitted = false) :
    execTxLoad s = .refused .lineConfig := by
  simp [execTxLoad, enabled, refused]

theorem execRxArrive_of_refused {s : State} (d : Byte) (enabled : s.rxEnabled = true)
    (refused : s.lineAdmitted = false) : execRxArrive d s = .refused .lineConfig := by
  simp [execRxArrive, enabled, refused]

theorem State.rxEnabled_iff {s : State} :
    s.rxEnabled = true ↔ crUarten s.params.layout s.cr = true ∧ crRxe s.params.layout s.cr = true :=
  Bool.and_eq_true_iff

/-- Settles O48: the guard of R170 first, then R176. -/
theorem txLoadMovesOldest : Obligations.TxLoadMovesOldest := by
  unfold Obligations.TxLoadMovesOldest
  intro s p guard
  have enabled_iff : s.txLoadEnabled = true ↔ guard := by
    rw [State.txLoadEnabled_iff, ← List.length_pos_iff]
    exact Iff.rfl
  refine ⟨fun on admitted b rest queued => ?_, fun on refused => ?_, fun off => ?_⟩
  · exact execTxLoad_eq_next.mpr (.inr ⟨enabled_iff.mpr on, admitted, b, rest, queued, rfl⟩)
  · exact execTxLoad_of_refused (enabled_iff.mpr on) refused
  · exact execTxLoad_eq_next.mpr (.inl ⟨Bool.eq_false_iff.mpr (mt enabled_iff.mp off), rfl⟩)

/-- Settles O49: the shifter's byte is the whole guard of R171. -/
theorem txDoneCompletesCharacter : Obligations.TxDoneCompletesCharacter := by
  unfold Obligations.TxDoneCompletesCharacter
  exact fun s => ⟨fun b shifting => execTxDone_eq_next.mpr (.inr ⟨b, shifting, rfl⟩),
    fun empty => execTxDone_eq_next.mpr (.inl ⟨empty, rfl⟩)⟩

/-- Settles O50: the enables first (R174), then R176, then the room (R172, R173). -/
theorem rxArriveReceivesOrLoses : Obligations.RxArriveReceivesOrLoses := by
  unfold Obligations.RxArriveReceivesOrLoses
  intro s d p enabled cap
  have enabled_iff : s.rxEnabled = true ↔ enabled := State.rxEnabled_iff
  refine ⟨fun on admitted room => ⟨{ s with rxFifo := s.rxFifo ++ [d] }, ?_, rfl, ?_, ?_⟩,
    fun on admitted full => ?_, fun on refused => ?_, fun off => ?_⟩
  · exact execRxArrive_eq_next.mpr (.inr (.inr ⟨enabled_iff.mpr on, admitted, room, rfl⟩))
  · simp [State.rxfe]
  · rw [State.rxff_iff, List.length_append]
    exact Iff.rfl
  · exact execRxArrive_eq_next.mpr (.inr (.inl ⟨enabled_iff.mpr on, admitted, Nat.not_lt.mp full, rfl⟩))
  · exact execRxArrive_of_refused d (enabled_iff.mpr on) refused
  · exact execRxArrive_eq_next.mpr (.inl ⟨Bool.eq_false_iff.mpr (mt enabled_iff.mp off), rfl⟩)

/-- Settles O60: a hardware step moves bytes along the line. -/
theorem hardwareStepsFrame : Obligations.HardwareStepsFrame := by
  unfold Obligations.HardwareStepsFrame
  refine ⟨fun s => rfl, fun i s t h hi => ?_⟩
  obtain ⟨x, hx, hardware⟩ : ∃ x : Turn, x.instr? = some i ∧ x.isHardware = true := by
    rcases hi with rfl | rfl | ⟨d, rfl⟩ | rfl
    · exact ⟨.txLoad, rfl, rfl⟩
    · exact ⟨.txDone, rfl, rfl⟩
    · exact ⟨.rxArrive d, rfl, rfl⟩
    · exact ⟨.modemChange, rfl, rfl⟩
  have moved := hardwareSince_of_exec hx hardware h
  exact ⟨moved.frame, moved.tx_suffix, moved.rx_prefix, moved.sent⟩

/-! ## The admitted configurations (R176) -/

/-- The bits of CR the source names are UARTEN, TXE and RXE (R70). -/
theorem getLsbD_crNamedMask {L : Layout} {k : Nat} (hk : k < 32) :
    (crNamedMask L).getLsbD k = true ↔ k = L.cr.uarten ∨ k = L.cr.txe ∨ k = L.cr.rxe := by
  rw [show crNamedMask L = crInit L from rfl, getLsbD_crInit]
  simp [hk, or_assoc]

/-- No other bit of CR is set exactly when each effective bit that is set is a named one. -/
theorem crOtherBits_eq_zero_iff {L : Layout} {v : Word} :
    crOtherBits L v = 0#32 ↔
      ∀ k, k < L.width.cr → v.getLsbD k = true → k = L.cr.uarten ∨ k = L.cr.txe ∨ k = L.cr.rxe := by
  have bit (k : Nat) (hk : k < 32) : (crOtherBits L v).getLsbD k =
      (decide (k < L.width.cr) && v.getLsbD k && !(crNamedMask L).getLsbD k) := by
    rw [crOtherBits, BitVec.getLsbD_and, getLsbD_trunc, BitVec.getLsbD_not, decide_eq_true hk, Bool.true_and]
  constructor
  · intro zero k effective set
    have hk : k < 32 := BitVec.lt_of_getLsbD set
    have other := bit k hk
    rw [zero, BitVec.getLsbD_zero] at other
    rw [← getLsbD_crNamedMask hk]
    simpa [effective, set] using other.symm
  · intro named
    refine BitVec.eq_of_getLsbD_eq fun k hk => ?_
    rw [bit k hk, BitVec.getLsbD_zero, Bool.eq_false_iff, ne_eq, Bool.and_eq_true_iff, Bool.and_eq_true_iff,
      decide_eq_true_iff]
    rintro ⟨⟨effective, set⟩, other⟩
    have := (getLsbD_crNamedMask hk).mpr (named k effective set)
    simp [this] at other

theorem State.lineAdmitted_iff {s : State} :
    s.lineAdmitted = true ↔
      lcrhWlen s.params.layout s.lcrh = s.params.layout.lcrh.wlen8 ∧ lcrhBrk s.params.layout s.lcrh = false ∧
      crOtherBits s.params.layout s.cr = 0#32 ∧ 1 ≤ s.baudLatch.ibrd.toNat := by
  have divides : s.baudLatch.ibrd ≠ 0#32 ↔ 1 ≤ s.baudLatch.ibrd.toNat := by
    rw [ne_eq, ← BitVec.toNat_inj]
    exact Nat.one_le_iff_ne_zero.symm
  simp [State.lineAdmitted, and_assoc, ← divides]

/-- By default the other bits of CR are those of 0xFCFE. -/
theorem crOtherBits_default (v : Word) : crOtherBits Layout.default v = v &&& 0xFCFE#32 := by
  have trunc16 : trunc 16 v = v &&& 0xFFFF#32 := by
    refine BitVec.eq_of_toNat_eq ?_
    rw [toNat_trunc, BitVec.toNat_and]
    exact (Nat.and_two_pow_sub_one_eq_mod v.toNat 16).symm
  show trunc 16 v &&& ~~~crNamedMask Layout.default = _
  rw [trunc16, BitVec.and_assoc]
  rfl

/-- Two values of LCR_H alike in WLEN and BRK are admitted alike. -/
theorem State.lineAdmitted_congr_lcrh {s : State} {v : Word}
    (wlen : lcrhWlen s.params.layout v = lcrhWlen s.params.layout s.lcrh)
    (brk : lcrhBrk s.params.layout v = lcrhBrk s.params.layout s.lcrh) :
    { s with lcrh := v }.lineAdmitted = s.lineAdmitted := by
  simp only [State.lineAdmitted, wlen, brk]

/-- WLEN and BRK stand apart from PEN, EPS, SPS, STP2 and FEN (R69). -/
theorem LcrhBits.apart_of_wf {L : Layout} (h : L.wf = true) {k : Nat}
    (hk : k = L.lcrh.brk ∨ k = L.lcrh.wlen ∨ k = L.lcrh.wlen + 1) :
    k ∉ [L.lcrh.pen, L.lcrh.eps, L.lcrh.sps, L.lcrh.stp2, L.lcrh.fen] := by
  have distinct := (Layout.lcrh_bits h).1
  simp only [LcrhBits.list, List.nodup_cons, List.mem_cons, List.not_mem_nil, or_false, not_or] at distinct
  grind

/-- Settles O52: R176 bit by bit, and the positions of LCR_H are distinct. -/
theorem admittedConfigurations : Obligations.AdmittedConfigurations := by
  unfold Obligations.AdmittedConfigurations
  refine ⟨fun s => ⟨?_, fun hL => ?_⟩, fun s v => ?_⟩
  · rw [State.lineAdmitted_iff, crOtherBits_eq_zero_iff]
    exact Iff.rfl
  · have hL : s.params.layout = Layout.default := hL
    rw [State.lineAdmitted_iff, hL, crOtherBits_default]
    exact Iff.rfl
  · intro p wf only
    have same {k : Nat} (hk : k = p.brk ∨ k = p.wlen ∨ k = p.wlen + 1) :
        (s.lcrh ^^^ v).getLsbD k = s.lcrh.getLsbD k := by
      have clear : v.getLsbD k = false := Bool.eq_false_iff.mpr (mt (only k) (LcrhBits.apart_of_wf wf hk))
      rw [BitVec.getLsbD_xor, clear, Bool.xor_false]
    refine State.lineAdmitted_congr_lcrh (BitVec.eq_of_getLsbD_eq fun k hk => ?_) (same (.inl rfl))
    simp only [lcrhWlen, BitVec.getLsbD_extractLsb', hk, decide_true, Bool.true_and]
    rcases (by omega : k = 0 ∨ k = 1) with rfl | rfl
    · exact same (.inr (.inl rfl))
    · exact same (.inr (.inr rfl))

end Sys2Proof.Machine
end

section
/-! The fair drain (spec/44_line_side.md R177, R178, R223): a step that writes no byte to DR moves bytes towards the
wire or leaves the transmitter alone, so from the state with the least left to send nothing moves, and a fair
transmitter has nothing left to send there. -/

namespace Sys2Proof.Machine

/-! ## A step that does not write DR accepts nothing -/

/-- `i` is an operation of the software that is no driver operation: a register access, BAUDDIV or BIND. -/
def IsRegister (i : Instr) : Prop := firstPhase? i = none ∧ isAgentStep i = false

theorem requestedBytes_of_register {i : Instr} (p : Params) (hi : IsRegister i) (hw : ∀ v, i ≠ .wrDr v) :
    requestedBytes p i = [] := by
  cases i with
  | wrDr v => exact absurd rfl (hw v)
  | init | writeByte | readByte | writeBytes | writeStr => cases hi.1
  | _ => rfl

/-- A register operation other than a write of DR, BAUDDIV or BIND accepts no byte. -/
theorem register_sends_nothing {i : Instr} {s t : State} (hi : IsRegister i) (hw : ∀ v, i ≠ .wrDr v)
    (h : exec i s = .next t) : sentStream t = sentStream s := by
  rw [(exec_of_register hi.1 hi.2 h).2, requestedBytes_of_register _ hi hw, List.append_nil]

theorem isRegister_of_sendAccess {bytes : List Byte} {n : Nat} {ph : XferPhase} {a : Instr}
    (h : sendAccess bytes n ph = some a) : IsRegister a := by
  cases ph <;> obtain ⟨b, -, rfl⟩ := Option.map_eq_some_iff.mp h <;> exact ⟨rfl, rfl⟩

/-- The access of a phase of the driver is a register operation (R77). -/
theorem isRegister_of_access? {c : Call} {s : State} {a : Instr} (h : c.access? s = some a) : IsRegister a := by
  cases c with
  | init c b ph => cases ph <;> cases h <;> exact ⟨rfl, rfl⟩
  | readByte ph => cases ph <;> cases h <;> exact ⟨rfl, rfl⟩
  | writeByte | writeBytes | writeStr => exact isRegister_of_sendAccess h

/-- An operation with a first phase is one of the driver's that make accesses. -/
theorem driver_of_firstPhase? {i : Instr} {c : Call} (h : firstPhase? i = some c) :
    (∃ c b, i = .init c b) ∨ (∃ b, i = .writeByte b) ∨ i = .readByte ∨ (∃ bytes, i = .writeBytes bytes) ∨
      ∃ text, i = .writeStr text := by
  cases i with
  | init c b => exact .inl ⟨c, b, rfl⟩
  | writeByte b => exact .inr (.inl ⟨b, rfl⟩)
  | readByte => exact .inr (.inr (.inl rfl))
  | writeBytes bytes => exact .inr (.inr (.inr (.inl ⟨bytes, rfl⟩)))
  | writeStr text => exact .inr (.inr (.inr (.inr ⟨text, rfl⟩)))
  | _ => cases h

/-- An operation whose access is no write of DR accepts no byte: it is a register operation, or makes the access of its
phase. -/
theorem exec_sends_nothing {i : Instr} {s t : State} (agent : isAgentStep i = false)
    (hw : ∀ v, busAccess i s ≠ some (.wrDr v)) (h : exec i s = .next t) : sentStream t = sentStream s := by
  cases first : firstPhase? i with
  | none =>
    refine register_sends_nothing ⟨first, agent⟩ ?_ h
    rintro v rfl
    exact hw v rfl
  | some c =>
    obtain ⟨access_runs, no_access⟩ := driverStepsAreRegisterAccesses i s t h (driver_of_firstPhase? first)
    cases access : busAccess i s with
    | none => rw [no_access access]; rfl
    | some a =>
      obtain ⟨u, hu, view⟩ := access_runs a access
      have phase : (s.call.getD c).access? s = some a := by rw [← access, busAccess, first]
      have noWrite : ∀ v, a ≠ .wrDr v := by rintro v rfl; exact hw v access
      have sent_view : sentStream t.accessView = sentStream u.accessView := congrArg sentStream view
      have sent : sentStream u = sentStream s := register_sends_nothing (isRegister_of_access? phase) noWrite hu
      exact sent_view.trans sent

theorem Call.isAgentStep_instr (c : Call) : isAgentStep c.instr = false := by
  cases c <;> rfl

theorem accessMade_of_fetch {s u : State} {i : Instr} (h : fetch s = .next (some i, u)) :
    accessMade s = busAccess i u := by
  simp only [accessMade, h]

theorem accessMade_ne_of_writesDr {s : State} (h : writesDr s = false) (v : Word) :
    accessMade s ≠ some (.wrDr v) := by
  intro made
  simp [writesDr, made] at h

/-! ## What is left to send -/

/-- The moves left until every byte accepted is on the wire: two for a byte in the FIFO, one for a byte in the
shifter. -/
def State.backlog (s : State) : Nat := 2 * s.txFifo.length + s.txShift.toList.length

theorem State.backlog_congr {s t : State} (fifo : t.txFifo = s.txFifo) (shifter : t.txShift = s.txShift) :
    t.backlog = s.backlog := by
  rw [State.backlog, fifo, shifter, State.backlog]

/-- From `s` to `t` nothing is accepted, and the transmitter is left alone or a byte moved on. -/
def Transmits (s t : State) : Prop :=
  sentStream t = sentStream s ∧ ((t.txFifo = s.txFifo ∧ t.txShift = s.txShift) ∨ t.backlog < s.backlog)

theorem Effect.transmits {s t : State} {i : Instr} (e : Effect s i t) (hr : i ≠ .reset)
    (sent : sentStream t = sentStream s) : Transmits s t := by
  refine ⟨sent, ?_⟩
  cases e with
  | reset => exact absurd rfl hr
  | wrDr v => exact absurd ((sentStream_push s _).symm.trans sent) (by simp)
  | send b => exact absurd ((sentStream_push s b).symm.trans sent) (by simp)
  | txLoad b rest queued =>
    refine .inr ?_
    simp only [State.backlog, queued, Option.toList_some, List.length_cons, List.length_nil]
    omega
  | txDone b shifting => exact .inr (by simp [State.backlog, shifting])
  | _ => exact .inl ⟨rfl, rfl⟩

theorem transmits_afterTurn (s t : State) : Transmits s.afterTurn t ↔ Transmits s t := by
  simp [Transmits, State.backlog]

theorem Turn.eq_reset_of_instr? {x : Turn} (h : x.instr? = some .reset) : x = .reset := by
  cases x <;> cases h
  rfl

/-- A step without a reset and without a write of DR accepts nothing, and leaves the transmitter alone or moves a byte
on. -/
theorem step_transmits {s t : State} (h : step s = .next t) (hr : s.turn ≠ .reset) (hw : writesDr s = false) :
    Transmits s t := by
  have software {i : Instr} {u : State} (agent : isAgentStep i = false) (he : exec i u = .next t)
      (sent : sentStream t = sentStream u) : Transmits u t :=
    (effect_of_exec he).transmits (by rintro rfl; cases agent) sent
  have hw := accessMade_ne_of_writesDr hw
  rw [← transmits_afterTurn]
  rcases step_cases h with ⟨i, hi, he⟩ | ⟨hm, c, hc, he⟩ | ⟨hturn, hc, i, base, program, hf, he⟩ |
    ⟨-, -, i, -, -, hi, he⟩ | ⟨-, -, -, rfl⟩
  · have noReset : i ≠ .reset := by rintro rfl; exact hr (Turn.eq_reset_of_instr? hi)
    exact (effect_of_exec he).transmits noReset (hardwareSince_of_exec hi (Turn.isHardware_of_instr? hi hr) he).sent
  · rw [accessMade_of_fetch (fetch_of_call hm hc)] at hw
    exact software c.isAgentStep_instr he (exec_sends_nothing c.isAgentStep_instr hw he)
  · have agent := fetch_isAgentStep hturn hc hf
    rw [accessMade_of_fetch hf] at hw
    have moved := software agent he (exec_sends_nothing agent hw he)
    exact moved
  · obtain ⟨register, noWrite⟩ : IsRegister i ∧ ∀ v, i ≠ .wrDr v := by
      rcases hi with ⟨c, b, rfl⟩ | ⟨base, rfl⟩ <;> exact ⟨⟨rfl, rfl⟩, nofun⟩
    exact software register.2 he (register_sends_nothing register noWrite he)
  · exact ⟨rfl, .inl ⟨rfl, rfl⟩⟩

/-! ## An enabled transmitter moves a byte on -/

theorem backlog_lt_of_txDone {s t : State} (turn : s.turn = .txDone) (shifting : s.txShift ≠ none)
    (h : step s = .next t) : t.backlog < s.backlog := by
  rw [step_of_hardware (i := .txDone) (by rw [turn]; rfl)] at h
  rcases execTxDone_eq_next.mp h with ⟨empty, -⟩ | ⟨b, shifting, rfl⟩
  · exact absurd (s.afterTurn_txShift.symm.trans empty) shifting
  · rw [s.afterTurn_txShift] at shifting
    simp [State.backlog, shifting]

theorem backlog_lt_of_txLoad {s t : State} (turn : s.turn = .txLoad) (enabled : s.txLoadEnabled = true)
    (h : step s = .next t) : t.backlog < s.backlog := by
  rw [step_of_hardware (i := .txLoad) (by rw [turn]; rfl)] at h
  rcases execTxLoad_eq_next.mp h with ⟨off, -⟩ | ⟨-, -, b, rest, queued, rfl⟩
  · exact absurd ((s.afterTurn_txLoadEnabled.symm.trans off).symm.trans enabled) Bool.false_ne_true
  · rw [s.afterTurn_txFifo] at queued
    simp only [State.backlog, queued, Option.toList_some, List.length_cons, List.length_nil]
    omega

theorem busy_eq_false_of_drained {s : State} (fifo : s.txFifo = []) (shifter : s.txShift = none) :
    s.busy = false := by
  simp [State.busy, fifo, shifter]

theorem wireOut_of_drained {s : State} (fifo : s.txFifo = []) (shifter : s.txShift = none) :
    s.wireOut = sentStream s := by
  simp [sentStream, fifo, shifter]

/-! ## Weak fairness (R178) -/

section
variable {ρ : Nat → State} (execution : Execution ρ)
  (quiet : ∀ n, (ρ n).turn ≠ .reset ∧ writesDr (ρ n) = false)
include execution

/-- A step of an execution, up to the turns that the environment adds. -/
theorem Execution.lowers {n : Nat} (lt : ∀ t, step (ρ n) = .next t → t.backlog < (ρ n).backlog) :
    (ρ (n + 1)).backlog < (ρ n).backlog := by
  obtain ⟨t, hstep, next⟩ := execution n
  rw [next]
  exact lt t hstep

include quiet

theorem Execution.transmits (n : Nat) : Transmits (ρ n) (ρ (n + 1)) := by
  obtain ⟨t, hstep, next⟩ := execution n
  have moved := step_transmits hstep (quiet n).1 (quiet n).2
  rw [next]
  exact moved

theorem Execution.sent_eq (n : Nat) : sentStream (ρ n) = sentStream (ρ 0) := by
  induction n with
  | zero => rfl
  | succ n ih => exact (execution.transmits quiet n).1.trans ih

/-- From where the backlog is least, the transmitter is left alone for ever. -/
theorem Execution.transmitter_stays {n : Nat} (least : ∀ m, (ρ n).backlog ≤ (ρ m).backlog) {m : Nat} (hm : n ≤ m) :
    (ρ m).txFifo = (ρ n).txFifo ∧ (ρ m).txShift = (ρ n).txShift := by
  induction m, hm using Nat.le_induction with
  | base => exact ⟨rfl, rfl⟩
  | succ m hm ih =>
    obtain ⟨fifo, shifter⟩ := ih
    rcases (execution.transmits quiet m).2 with ⟨fifo', shifter'⟩ | lower
    · exact ⟨fifo'.trans fifo, shifter'.trans shifter⟩
    · rw [State.backlog_congr fifo shifter] at lower
      exact absurd lower (Nat.not_lt.mpr (least (m + 1)))

/-- There a fair transmitter has nothing left to send: an agent with something to do would be enabled for ever. -/
theorem Execution.drained_of_least (fair : Fair ρ)
    (on : ∀ n, crUarten (ρ n).params.layout (ρ n).cr = true ∧ crTxe (ρ n).params.layout (ρ n).cr = true) {n : Nat}
    (least : ∀ m, (ρ n).backlog ≤ (ρ m).backlog) : (ρ n).txFifo = [] ∧ (ρ n).txShift = none := by
  obtain ⟨fairLoad, fairDone⟩ := fair
  have not_lower {m : Nat} (hm : n ≤ m) : ¬ (ρ (m + 1)).backlog < (ρ m).backlog := by
    obtain ⟨fifo, shifter⟩ := execution.transmitter_stays quiet least hm
    rw [State.backlog_congr fifo shifter]
    exact Nat.not_lt.mpr (least (m + 1))
  have idle : (ρ n).txShift = none := by
    by_contra shifting
    have shifting {m : Nat} (hm : m ≥ n) : (ρ m).txShift ≠ none := by
      rwa [(execution.transmitter_stays quiet least hm).2]
    obtain ⟨m, hm, turn⟩ := fairDone n fun m hm => Option.isSome_iff_ne_none.mpr (shifting hm)
    exact not_lower hm (execution.lowers fun t => backlog_lt_of_txDone turn (shifting hm))
  refine ⟨?_, idle⟩
  by_contra queued
  have enabled (m : Nat) (hm : m ≥ n) : (ρ m).txLoadEnabled = true := by
    obtain ⟨fifo, shifter⟩ := execution.transmitter_stays quiet least hm
    obtain ⟨uarten, txe⟩ := on m
    exact State.txLoadEnabled_iff.mpr ⟨uarten, txe, shifter.trans idle, fifo ▸ queued⟩
  obtain ⟨m, hm, turn⟩ := fairLoad n enabled
  exact not_lower hm (execution.lowers fun t => backlog_lt_of_txLoad turn (enabled m hm))

end

/-! ## Counted in turns (R223) -/

/-- Hardware turns that each answer and keep `Q`, with `need` among them in order, run to their end. -/
theorem run_of_needed_turns {Q : List Turn → List Turn → State → Prop} {good : Turn → Prop}
    (skip : ∀ need x ts s, good x → Q need (x :: ts) s → ∃ t, step s = .next t ∧ Q need ts t)
    (take : ∀ need x ts s, good x → Q (x :: need) (x :: ts) s → ∃ t, step s = .next t ∧ Q need ts t)
    {need ts : List Turn} (hsub : need.Sublist ts) (hgood : ∀ x ∈ ts, good x) {s : State} (hs : Q need ts s) :
    ∃ t, run ts.length s = .next t ∧ Q [] [] t := by
  induction hsub generalizing s with
  | slnil => exact ⟨s, rfl, hs⟩
  | cons x _ ih =>
    obtain ⟨hx, hgood⟩ := List.forall_mem_cons.mp hgood
    obtain ⟨u, hstep, hu⟩ := skip _ x _ s hx hs
    obtain ⟨t, hrun, ht⟩ := ih hgood hu
    exact ⟨t, run_succ_eq_next.mpr ⟨u, hstep, hrun⟩, ht⟩
  | cons_cons x _ ih =>
    obtain ⟨hx, hgood⟩ := List.forall_mem_cons.mp hgood
    obtain ⟨u, hstep, hu⟩ := take _ x _ s hx hs
    obtain ⟨t, hrun, ht⟩ := ih hgood hu
    exact ⟨t, run_succ_eq_next.mpr ⟨u, hstep, hrun⟩, ht⟩

/-- `n` times TX_DONE and then TX_LOAD. -/
def sendRounds (n : Nat) : List Turn := (List.replicate n [Turn.txDone, Turn.txLoad]).flatten

theorem sendRounds_succ (n : Nat) : sendRounds (n + 1) = .txDone :: .txLoad :: sendRounds n := rfl

/-- The turns that the transmitter still needs in a state until everything accepted is on the wire: a round for each
byte in the FIFO and one for the shifter, whose byte may already be done. -/
inductive DrainNeeds (s : State) : List Turn → Prop where
  | drained {need : List Turn} (fifo : s.txFifo = []) (shifter : s.txShift = none) : DrainNeeds s need
  | round {n : Nat} (rounds : s.txFifo.length < n) : DrainNeeds s (sendRounds n)
  | load {n : Nat} (rounds : (s.txShift = none ∧ s.txFifo.length ≤ n) ∨ s.txFifo.length < n) :
      DrainNeeds s (.txLoad :: sendRounds n)

theorem DrainNeeds.of_nil {s : State} (h : DrainNeeds s []) : s.txFifo = [] ∧ s.txShift = none := by
  generalize hn : ([] : List Turn) = need at h
  cases h with
  | drained fifo shifter => exact ⟨fifo, shifter⟩
  | @round n rounds =>
    cases n with
    | zero => cases rounds
    | succ n => cases hn
  | load => cases hn

section
variable {s t : State} {x : Turn} {need ts : List Turn} (hs : s.schedule = x :: ts)
  (hx : x.isHardware = true) (h : step s = .next t)
include hs hx h

theorem drained_of_hardware (fifo : s.txFifo = []) (shifter : s.txShift = none) :
    t.txFifo = [] ∧ t.txShift = none := by
  rcases hardware_transmits hs hx h with ⟨fifo', shifter'⟩ | ⟨-, b, queued⟩
  · exact ⟨fifo'.trans fifo, shifter' shifter⟩
  · rw [fifo] at queued; cases queued

/-- No hardware turn makes the transmitter need more. -/
theorem DrainNeeds.skip (needs : DrainNeeds s need) : DrainNeeds t need := by
  have shrinks := (hardwareSince_of_step hs hx h).tx_suffix.length_le
  cases needs with
  | drained fifo shifter =>
    obtain ⟨fifo, shifter⟩ := drained_of_hardware hs hx h fifo shifter
    exact .drained fifo shifter
  | round rounds => exact .round (by omega)
  | load rounds =>
    refine .load ?_
    rcases hardware_transmits hs hx h with ⟨fifo', shifter'⟩ | ⟨-, b, queued⟩
    · rw [fifo']
      exact rounds.imp_left fun ⟨shifter, le⟩ => ⟨shifter' shifter, le⟩
    · have longer := congrArg List.length queued
      rw [List.length_cons] at longer
      exact .inr (by omega)

/-- The next turn needed does what it is needed for. -/
theorem DrainNeeds.take (uarten : crUarten s.params.layout s.cr = true) (txe : crTxe s.params.layout s.cr = true)
    (needs : DrainNeeds s (x :: need)) : DrainNeeds t need := by
  have shrinks := (hardwareSince_of_step hs hx h).tx_suffix.length_le
  generalize hn : x :: need = all at needs
  cases needs with
  | drained fifo shifter =>
    obtain ⟨fifo, shifter⟩ := drained_of_hardware hs hx h fifo shifter
    exact .drained fifo shifter
  | @round n rounds =>
    cases n with
    | zero => cases rounds
    | succ n =>
      rw [sendRounds_succ] at hn
      cases hn
      have he := (step_of_scheduled_hardware hs rfl).symm.trans h
      exact .load (.inl ⟨txShift_of_txDone he, by omega⟩)
  | @load n rounds =>
    cases hn
    have he := (step_of_scheduled_hardware hs rfl).symm.trans h
    rcases rounds with ⟨shifter, le⟩ | rounds
    · rcases execTxLoad_eq_next.mp he with ⟨off, rfl⟩ | ⟨-, -, b, rest, queued, rfl⟩
      · refine .drained ?_ shifter
        by_contra queued
        exact absurd (State.txLoadEnabled_iff.mpr ⟨uarten, txe, shifter, queued⟩) (Bool.eq_false_iff.mp off)
      · have longer : s.txFifo.length = rest.length + 1 := congrArg List.length queued
        exact .round (show rest.length < n by omega)
    · exact .round (by omega)

end

/-- Settles O51: where the backlog is least nothing is left to send; and each round of turns sends a byte. -/
theorem fairDrainReachesTheWire : Obligations.FairDrainReachesTheWire := by
  unfold Obligations.FairDrainReachesTheWire
  refine ⟨fun ρ execution fair always => ?_, fun s ts rest hs hardware uarten txe admitted hsub => ?_⟩
  · have quiet (n : Nat) : (ρ n).turn ≠ .reset ∧ writesDr (ρ n) = false := (always n).2.2.2
    have on (n : Nat) := And.intro (always n).1 (always n).2.1
    let n := Function.argmin fun n => (ρ n).backlog
    obtain ⟨fifo, shifter⟩ := execution.drained_of_least quiet fair on (n := n)
      fun m => Function.argmin_le (fun n => (ρ n).backlog) m
    exact ⟨n, fifo, shifter, (wireOut_of_drained fifo shifter).trans (execution.sent_eq quiet n),
      busy_eq_false_of_drained fifo shifter⟩
  · have answers (x : Turn) (us : List Turn) (u : State) (hx : x.isHardware = true)
        (since : HardwareSince s (x :: us ++ rest) u) :
        ∃ t, step u = .next t ∧ HardwareSince s (us ++ rest) t := by
      obtain ⟨t, hstep⟩ := hardware_step_answers since.schedule_eq hx (since.lineAdmitted_eq.trans admitted)
      exact ⟨t, hstep, since.trans (hardwareSince_of_step since.schedule_eq hx hstep)⟩
    obtain ⟨t, hrun, since, needs⟩ := run_of_needed_turns
      (Q := fun need us u => HardwareSince s (us ++ rest) u ∧ DrainNeeds u need)
      (fun need x us u hx ⟨since, needs⟩ => by
        obtain ⟨t, hstep, since'⟩ := answers x us u hx since
        exact ⟨t, hstep, since', needs.skip since.schedule_eq hx hstep⟩)
      (fun need x us u hx ⟨since, needs⟩ => by
        obtain ⟨t, hstep, since'⟩ := answers x us u hx since
        have same : u.params = s.params ∧ u.cr = s.cr := by rw [since.frame]; exact ⟨rfl, rfl⟩
        exact ⟨t, hstep, since', needs.take since.schedule_eq hx hstep (by rwa [same.1, same.2])
          (by rwa [same.1, same.2])⟩)
      hsub hardware ⟨hs ▸ .refl s s.schedule, .round (Nat.lt_succ_self _)⟩
    obtain ⟨fifo, shifter⟩ := needs.of_nil
    exact ⟨t, hrun, fifo, shifter, (wireOut_of_drained fifo shifter).trans since.sent,
      busy_eq_false_of_drained fifo shifter, since.call_eq, by rw [since.frame], since.schedule_eq⟩

end Sys2Proof.Machine
end

section
/-! A program of calls under any schedule (spec/43_transfer.md R150 to R152, spec/44_line_side.md R179): the phase that
the bus master's next turn runs, and what a transfer leaves alone. -/

namespace Sys2Proof.Machine

/-! ## The phase that is due -/

/-- The bus master's next turn runs phase `c`, and `rest` is the program behind it: its operation runs on a good BASE,
or is the call at the head of the program, which passes no BASE. -/
inductive State.Due (s : State) (c : Call) (rest : List Item) : Prop where
  | running (call : s.call = some c) (base : s.baseOk = true) (program : s.program = rest)
  | issued (op : DriverOp) (idle : s.call = none) (head : s.program = ⟨none, .call op⟩ :: rest)
      (starts : firstPhase? op.instr = some c)

/-- The state in which a phase runs: its turn used up, `rest` the program behind it. -/
def State.onTurn (s : State) (base : Nat) (rest : List Item) (ts : List Turn) : State :=
  { s with base, program := rest, schedule := ts }

theorem State.setBase_none_of_issued (s : State) : (s.setBase none).setBase none = s.setBase none := by
  unfold State.setBase
  cases s.bindings.head? <;> rfl

/-- The phase that is due runs on a good BASE, and an entry that passes none finds a good one then too. -/
theorem State.Due.step_eq {s : State} {c : Call} {rest : List Item} {ts : List Turn} (due : s.Due c rest)
    (good : (s.setBase none).baseOk = true) (hs : s.schedule = .master :: ts) :
    ∃ base, step s = exec c.instr (s.onTurn base rest ts) ∧ (s.onTurn base rest ts).InPhase c ∧
      (s.onTurn base rest ts).baseOk = true ∧ ((s.onTurn base rest ts).setBase none).baseOk = true := by
  cases due with
  | running call base program =>
    subst program
    exact ⟨s.base, step_of_scheduled_call hs call, .inl call, base, good⟩
  | issued op idle head starts =>
    have instr : c.instr = op.instr := instr_of_firstPhase? starts
    have again : ((s.setBase none).setBase none).baseOk = true := by rwa [s.setBase_none_of_issued]
    refine ⟨(s.setBase none).base, ?_, .inr ⟨idle, instr ▸ starts⟩, good, again⟩
    rw [instr]
    exact step_of_fetch_next (fetch_of_head hs idle head)

/-! ## What the phases of WRITE_BYTES and READ_BYTE do -/

/-- Only a running operation is about to act: it starts in POLL. -/
theorem State.InPhase.call_of_writes {s : State} {bytes : List Byte} {n : Nat}
    (h : s.InPhase (.writeBytes bytes n .ACT)) : s.call = some (.writeBytes bytes n .ACT) :=
  h.resolve_right fun ⟨_, start⟩ => nomatch start

theorem State.InPhase.call_of_reads {s : State} (h : s.InPhase (.readByte .ACT)) :
    s.call = some (.readByte .ACT) :=
  h.resolve_right fun ⟨_, start⟩ => nomatch start

/-- A phase of WRITE_BYTES answers, and ends the operation or leaves it in another phase. -/
theorem exec_writeBytes_answers {s : State} {bytes : List Byte} {n : Nat} {ph : XferPhase} (inv : Inv s)
    (hb : s.baseOk = true) (phase : s.InPhase (.writeBytes bytes n ph)) :
    ∃ t, exec (.writeBytes bytes) s = .next t ∧ t.returned = s.returned ∧
      (t.call = none ∨ ∃ k ph', t.call = some (.writeBytes bytes k ph')) := by
  cases left : bytes.drop n with
  | nil =>
    refine ⟨s.setCall none, ?_, rfl, .inl rfl⟩
    rw [exec_writeBytes_of_inPhase phase, sendSequence_of_end (List.drop_eq_nil_iff.mp left)]
  | cons b rest =>
    have pending : (Call.writeBytes bytes n ph).pending s.params = b :: rest := left
    cases ph with
    | POLL =>
      refine ⟨_, exec_send_poll hb phase pending rfl, rfl, .inr ⟨n, if s.txff then .POLL else .ACT, ?_⟩⟩
      rw [State.setCall_call]
      cases s.txff <;> rfl
    | ACT =>
      have room := inv.write_room _ phase.call_of_writes rfl
      refine ⟨_, exec_send_act hb phase pending rfl room, rfl, ?_⟩
      rw [State.setCall_call, Call.afterByte]
      split
      · exact .inr ⟨_, _, rfl⟩
      · exact .inl rfl

/-- A phase of READ_BYTE answers, and leaves the operation in another phase or ends it with one byte more returned. -/
theorem exec_readByte_answers {s : State} {ph : XferPhase} (hb : s.baseOk = true) (phase : s.InPhase (.readByte ph)) :
    ∃ t, exec .readByte s = .next t ∧
      ((t.returned = s.returned ∧ ∃ ph', t.call = some (.readByte ph')) ∨
        (t.call = none ∧ ∃ d, t.returned = s.returned ++ [d])) := by
  rw [exec_readByte_of_inPhase phase]
  cases ph with
  | POLL => exact ⟨_, receivePhase_poll hb, .inl ⟨rfl, _, rfl⟩⟩
  | ACT => exact ⟨_, receivePhase_act hb, .inr ⟨rfl, _, rfl⟩⟩

/-- From `s` to `t` a transfer changed its own record, the queues and what was read, and nothing else. -/
structure TransferFrame (s t : State) : Prop where
  frame : t = { s with
    txFifo := t.txFifo, rxFifo := t.rxFifo, call := t.call, readData := t.readData, returned := t.returned
    draws := t.draws }
  returned_prefix : s.returned <+: t.returned

theorem transferFrame_writeBytes {s t : State} {bytes : List Byte} (h : exec (.writeBytes bytes) s = .next t) :
    TransferFrame s t := by
  cases effect_of_exec h <;> exact ⟨rfl, List.prefix_rfl⟩

theorem transferFrame_readByte {s t : State} (h : exec .readByte s = .next t) : TransferFrame s t := by
  cases effect_of_exec h with
  | receive => exact ⟨rfl, List.prefix_append _ _⟩
  | _ => exact ⟨rfl, List.prefix_rfl⟩

end Sys2Proof.Machine
end

section
/-! A loopback peer (spec/20_memory.md R51, spec/44_line_side.md R177, R179): the bytes written reach the wire in order,
each is echoed after it left and finds room, and READ_BYTE returns them in the order of their arrival. -/

namespace Sys2Proof.Machine

/-- What a round trip of `n` bytes needs of the configuration: an enabled and admitted line, a FIFO for each direction,
and a good BASE for the entries of the program that pass none. -/
structure State.LoopReady (s : State) (n : Nat) : Prop where
  uarten : crUarten s.params.layout s.cr = true
  txe : crTxe s.params.layout s.cr = true
  rxEnabled : s.rxEnabled = true
  admitted : s.lineAdmitted = true
  txCap_pos : 1 ≤ s.txCap
  rxCap_le : n ≤ s.rxCap
  base : (s.setBase none).baseOk = true

theorem State.LoopReady.of_transfer {s t : State} {n : Nat} (ready : s.LoopReady n) (h : TransferFrame s t) :
    t.LoopReady n := by
  rw [h.frame]
  exact { ready with }

theorem State.LoopReady.of_hardware {s t : State} {n : Nat} {ts : List Turn} (ready : s.LoopReady n)
    (h : HardwareSince s ts t) : t.LoopReady n := by
  rw [h.frame]
  exact { ready with }

/-- `n` calls of READ_BYTE. -/
def reads (n : Nat) : List Item := List.replicate n ⟨none, .call .readByte⟩

/-! ## The program: one WRITE_BYTES, then the reads -/

/-- How far the program that writes `bytes` and reads as many has come since `a`: what is accepted and what is returned
is what is left undone. -/
inductive LoopStage (a : State) (bytes : List Byte) (s : State) : Prop where
  | write (n : Nat) (ph : XferPhase) (due : s.Due (.writeBytes bytes n ph) (reads bytes.length))
      (sent : sentStream s ++ bytes.drop n = a.wireOut ++ bytes) (count : s.returned.length = a.returned.length)
  | read (n : Nat) (ph : XferPhase) (due : s.Due (.readByte ph) (reads n))
      (sent : sentStream s = a.wireOut ++ bytes)
      (count : s.returned.length + (n + 1) = a.returned.length + bytes.length)
  | done (idle : s.call = none) (program : s.program = []) (sent : sentStream s = a.wireOut ++ bytes)
      (count : s.returned.length = a.returned.length + bytes.length)

section
variable {a s t : State} {bytes : List Byte}

/-- Between two operations, all written and `n` bytes to read. -/
theorem LoopStage.of_idle {n : Nat} (idle : s.call = none) (program : s.program = reads n)
    (sent : sentStream s = a.wireOut ++ bytes) (count : s.returned.length + n = a.returned.length + bytes.length) :
    LoopStage a bytes s := by
  cases n with
  | zero => exact .done idle program sent count
  | succ n => exact .read n .POLL (.issued .readByte idle program rfl) sent count

/-- What is accepted is a beginning of what is to be written. -/
theorem LoopStage.sent_prefix (stage : LoopStage a bytes s) : sentStream s <+: a.wireOut ++ bytes := by
  cases stage with
  | write n ph due sent => exact sent ▸ List.prefix_append _ _
  | read n ph due sent => exact sent ▸ List.prefix_rfl
  | done idle program sent => exact sent ▸ List.prefix_rfl

/-- When no operation runs and the program is over, each byte was read. -/
theorem LoopStage.count_of_end (stage : LoopStage a bytes s) (idle : s.call = none) (program : s.program = []) :
    s.returned.length = a.returned.length + bytes.length := by
  have notDue {c : Call} {rest : List Item} (due : s.Due c rest) : False := by
    cases due with
    | running call => cases idle.symm.trans call
    | issued op _ head => cases program.symm.trans head
  cases stage with
  | write n ph due => exact (notDue due).elim
  | read n ph due => exact (notDue due).elim
  | done _ _ _ count => exact count

theorem State.Due.hardware {c : Call} {rest : List Item} {ts : List Turn} (due : s.Due c rest)
    (moved : HardwareSince s ts t) : t.Due c rest := by
  rw [moved.frame]
  cases due with
  | running call base program => exact .running call base program
  | issued op idle head starts => exact .issued op idle head starts

theorem HardwareSince.returned_eq {ts : List Turn} (moved : HardwareSince s ts t) : t.returned = s.returned := by
  rw [moved.frame]

/-- Hardware steps leave the program where it is. -/
theorem LoopStage.hardware {ts : List Turn} (stage : LoopStage a bytes s) (moved : HardwareSince s ts t) :
    LoopStage a bytes t := by
  cases stage with
  | write n ph due sent count =>
    exact .write n ph (due.hardware moved) (by rw [moved.sent, sent]) (by rw [moved.returned_eq, count])
  | read n ph due sent count =>
    exact .read n ph (due.hardware moved) (moved.sent.trans sent) (by rw [moved.returned_eq, count])
  | done idle program sent count =>
    exact .done (moved.call_eq.trans idle) (by rw [moved.frame, program]) (moved.sent.trans sent)
      (by rw [moved.returned_eq, count])

end

/-! ## Any schedule in which each arrival is the next byte of the wire -/

/-- The program that writes `bytes` and reads as many runs since `a`, the peer echoed the bytes `echoed`, and the turns
`ts` are to come. -/
structure Looping (a : State) (bytes echoed : List Byte) (ts : List Turn) (s : State) : Prop where
  inv : Inv s
  schedule_eq : s.schedule = ts
  ready : s.LoopReady bytes.length
  stage : LoopStage a bytes s
  received : receivedStream s = a.returned ++ echoed
  returned_prefix : a.returned <+: s.returned
  echo : a.wireOut ++ echoed <+: s.wireOut

theorem wireOut_prefix_sentStream (s : State) : s.wireOut <+: sentStream s := by
  rw [sentStream, List.append_assoc]
  exact List.prefix_append _ _

section
variable {a s t : State} {bytes echoed : List Byte} {ts : List Turn}

/-- What is echoed left before, so it is a beginning of what is written. -/
theorem Looping.echo_prefix (l : Looping a bytes echoed ts s) {more : List Byte}
    (echo : a.wireOut ++ more <+: s.wireOut) : more <+: bytes :=
  (List.prefix_append_right_inj a.wireOut).mp
    ((echo.trans (wireOut_prefix_sentStream s)).trans l.stage.sent_prefix)

/-- What was returned is a beginning of what is written. -/
theorem Looping.returned_eq (l : Looping a bytes echoed ts s) :
    ∃ back, s.returned = a.returned ++ back ∧ back <+: bytes := by
  obtain ⟨back, returned⟩ := l.returned_prefix
  have received := l.received
  rw [receivedStream, ← returned, List.append_assoc, List.append_cancel_left_eq] at received
  exact ⟨back, returned.symm, (received ▸ List.prefix_append back s.rxFifo).trans (l.echo_prefix l.echo)⟩

/-- After a phase of a transfer the program has come to `stage`. -/
theorem Looping.transfer {v : State} {c : Call} {base : Nat} {rest : List Item}
    (l : Looping a bytes echoed (.master :: ts) s) (hv : v = s.onTurn base rest ts)
    (good : (v.setBase none).baseOk = true) (hstep : step s = exec c.instr v) (he : exec c.instr v = .next t)
    (frame : TransferFrame v t) (stage : LoopStage a bytes t) : Looping a bytes echoed ts t where
  inv := l.inv.step (hstep.trans he)
  schedule_eq := by rw [frame.frame, hv]; rfl
  ready := by
    have ready : v.LoopReady bytes.length := by subst hv; exact { l.ready with base := good }
    exact ready.of_transfer frame
  stage := stage
  received := by
    have inv : Inv v := hv ▸ l.inv.bookkeeping _ _ _ _
    have received : receivedStream v = receivedStream s := by subst hv; rfl
    rw [receivedStream_of_exec inv.read_byte c.changesReceived_instr he, received, l.received]
  returned_prefix := by
    have returned : v.returned = s.returned := by subst hv; rfl
    exact l.returned_prefix.trans (returned ▸ frame.returned_prefix)
  echo := by
    have wire : t.wireOut = s.wireOut := by rw [frame.frame, hv]; rfl
    rw [wire]
    exact l.echo

/-- The bus master's turn answers: a phase of the write or of a read, or nothing when the program is over. -/
theorem Looping.master (l : Looping a bytes echoed (.master :: ts) s) :
    ∃ t, step s = .next t ∧ Looping a bytes echoed ts t := by
  have inv (base : Nat) (rest : List Item) : Inv (s.onTurn base rest ts) := l.inv.bookkeeping _ _ _ _
  cases l.stage with
  | write n ph due sent count =>
    obtain ⟨base, hstep, phase, hb, good⟩ := due.step_eq l.ready.base l.schedule_eq
    obtain ⟨t, he, returned, ended⟩ := exec_writeBytes_answers (inv base _) hb phase
    have frame := transferFrame_writeBytes he
    have count : t.returned.length = a.returned.length := by rw [returned]; exact count
    obtain ⟨out, accepted, asked⟩ := accepts_of_inPhase phase he
    have sent : sentStream t ++ pendingBytes t = a.wireOut ++ bytes := by
      rw [accepted, List.append_assoc, asked]; exact sent
    have program : t.program = reads bytes.length := by rw [frame.frame]; rfl
    refine ⟨t, hstep.trans he, l.transfer rfl good hstep he frame ?_⟩
    rcases ended with idle | ⟨k, ph', running⟩
    · rw [pendingBytes_of_none idle, List.append_nil] at sent
      exact .of_idle idle program sent (by rw [count])
    · rw [pendingBytes_of_some running] at sent
      exact .write k ph' (.running running (by rw [frame.frame]; exact hb) program) sent count
  | read n ph due sent count =>
    obtain ⟨base, hstep, phase, hb, good⟩ := due.step_eq l.ready.base l.schedule_eq
    obtain ⟨t, he, ended⟩ := exec_readByte_answers hb phase
    have frame := transferFrame_readByte he
    have sent : sentStream t = a.wireOut ++ bytes := (exec_readByte_sends_nothing he).1.trans sent
    have program : t.program = reads n := by rw [frame.frame]; rfl
    refine ⟨t, hstep.trans he, l.transfer rfl good hstep he frame ?_⟩
    rcases ended with ⟨returned, ph', running⟩ | ⟨idle, d, returned⟩
    · exact .read n ph' (.running running (by rw [frame.frame]; exact hb) program) sent (by rw [returned]; exact count)
    · refine .of_idle idle program sent ?_
      rw [returned, List.length_append, ← count, Nat.add_comm n 1, ← Nat.add_assoc]
      rfl
  | done idle program sent count =>
    refine ⟨{ s with schedule := ts }, ?_, ?_⟩
    · rw [step_of_idle (State.turn_of_schedule l.schedule_eq) idle program, State.afterTurn_of_schedule l.schedule_eq]
    · exact { l with
        inv := inv s.base s.program
        schedule_eq := rfl
        ready := { l.ready with }
        stage := .done idle program sent count }

/-- A hardware step only adds to the wire (R34). -/
theorem wireOut_prefix_of_hardware {x : Turn} (hs : s.schedule = x :: ts) (hx : x.isHardware = true)
    (h : step s = .next t) : s.wireOut <+: t.wireOut := by
  obtain ⟨i, hi, he⟩ := exec_of_hardware_turn hs hx h
  obtain ⟨-, -, -, -, grows, -⟩ := parametersAreFixed i _ t he
  refine grows ?_
  rintro rfl
  obtain rfl := Turn.eq_reset_of_instr? hi
  cases hx

/-- A hardware turn answers; what arrives is the next byte of the wire, and is received: no more is echoed than is
written, and that the receive FIFO holds. -/
theorem Looping.hardware {x : Turn} (l : Looping a bytes echoed (x :: ts) s) (hx : x.isHardware = true)
    (echo : a.wireOut ++ (echoed ++ arrivals [x]) <+: s.wireOut) :
    ∃ t, step s = .next t ∧ Looping a bytes (echoed ++ arrivals [x]) ts t := by
  obtain ⟨t, hstep⟩ := hardware_step_answers l.schedule_eq hx l.ready.admitted
  have moved := hardwareSince_of_step l.schedule_eq hx hstep
  have received : t.rxFifo = s.rxFifo ++ arrivals [x] := by
    obtain ⟨i, hi, he⟩ := exec_of_hardware_turn l.schedule_eq hx hstep
    cases x with
    | master | reset | context => cases hx
    | txLoad | txDone | modemChange =>
      cases hi
      exact (((effect_of_exec he).keeps_received rfl nofun).2).trans (List.append_nil _).symm
    | rxArrive d =>
      cases hi
      refine (rxFifo_of_arrival (s := { s with schedule := ts }) l.ready.rxEnabled he).resolve_right fun ⟨full, _⟩ => ?_
      have full : s.rxCap ≤ s.rxFifo.length := full
      have queued := congrArg List.length l.received
      have kept := l.returned_prefix.length_le
      have short : (echoed ++ [d]).length ≤ bytes.length := (l.echo_prefix echo).length_le
      have cap := l.ready.rxCap_le
      simp only [receivedStream, List.length_append, List.length_singleton] at queued short
      omega
  refine ⟨t, hstep, l.inv.step hstep, moved.schedule_eq, l.ready.of_hardware moved, l.stage.hardware moved, ?_, ?_,
    echo.trans (wireOut_prefix_of_hardware l.schedule_eq hx hstep)⟩
  · rw [receivedStream, moved.returned_eq, received, ← List.append_assoc, ← List.append_assoc, ← l.received]
    rfl
  · rw [moved.returned_eq]
    exact l.returned_prefix

/-- The next byte of a list after one of its beginnings makes a longer beginning. -/
theorem prefix_concat_of_getElem? {l m : List Byte} {d : Byte} (h : l <+: m) (hd : m[l.length]? = some d) :
    l ++ [d] <+: m := by
  obtain ⟨hlt, rfl⟩ := List.getElem?_eq_some_iff.mp hd
  exact List.concat_get_prefix h hlt

/-- A quiet turn answers, if what arrives is the next byte of the wire not yet echoed. -/
theorem Looping.turn {x : Turn} (l : Looping a bytes echoed (x :: ts) s) (quiet : x.isQuiet = true)
    (next : ∀ d, x = .rxArrive d → s.wireOut[a.wireOut.length + echoed.length]? = some d) :
    ∃ t, step s = .next t ∧ Looping a bytes (echoed ++ arrivals [x]) ts t := by
  have silent (none_arrives : arrivals [x] = []) : a.wireOut ++ (echoed ++ arrivals [x]) <+: s.wireOut := by
    rw [none_arrives, List.append_nil]
    exact l.echo
  cases x with
  | reset | context => cases quiet
  | master =>
    rw [show arrivals [.master] = [] from rfl, List.append_nil]
    exact l.master
  | txLoad | txDone | modemChange => exact l.hardware rfl (silent rfl)
  | rxArrive d =>
    refine l.hardware rfl ?_
    rw [← List.append_assoc]
    exact prefix_concat_of_getElem? l.echo (by rw [List.length_append]; exact next d rfl)

/-- A run over such turns. -/
theorem Looping.run_answers {later : List Turn} (l : Looping a bytes [] (ts ++ later) a)
    (quiet : ∀ x ∈ ts, x.isQuiet = true)
    (next : ∀ k d u, ts[k]? = some (.rxArrive d) → run k a = .next u →
      u.wireOut[a.wireOut.length + (arrivals (ts.take k)).length]? = some d) {k : Nat} (hk : k ≤ ts.length) :
    ∃ t, run k a = .next t ∧ Looping a bytes (arrivals (ts.take k)) (ts.drop k ++ later) t := by
  induction k with
  | zero => exact ⟨a, rfl, l⟩
  | succ k ih =>
    obtain ⟨u, hrun, lu⟩ := ih (Nat.le_of_succ_le hk)
    rw [List.drop_eq_getElem_cons hk] at lu
    have here : ts[k]? = some ts[k] := List.getElem?_eq_getElem hk
    have next_byte (d : Byte) (hd : ts[k] = .rxArrive d) := next k d u (here.trans (congrArg some hd)) hrun
    obtain ⟨t, hstep, lt⟩ := lu.turn (quiet _ (List.getElem_mem hk)) next_byte
    refine ⟨t, run_add_eq_next.mpr ⟨u, hrun, run_succ_eq_next.mpr ⟨t, hstep, rfl⟩⟩, ?_⟩
    rw [← List.take_concat_get' ts k hk, arrivals, List.filterMap_append]
    exact lt

end

end Sys2Proof.Machine
end

section
/-! The eager schedule of a loopback peer (spec/44_line_side.md R179): each byte is polled, written, loaded, sent and
echoed before the next, and then each is polled for and read. -/

namespace Sys2Proof.Machine

/-- Between two operations on the eager schedule since `a`: `fifo` is in the transmit FIFO and the shifter is empty,
`wire` is on the wire, `queued` is in the receive FIFO, `back` was returned, and the turns `ts` are to come. -/
structure Eager (a : State) (bytes fifo wire queued back : List Byte) (ts : List Turn) (s : State) : Prop where
  ready : s.LoopReady bytes.length
  schedule_eq : s.schedule = ts
  txFifo_eq : s.txFifo = fifo
  txShift_eq : s.txShift = none
  wireOut_eq : s.wireOut = a.wireOut ++ wire
  rxFifo_eq : s.rxFifo = queued
  returned_eq : s.returned = a.returned ++ back

section
variable {a s : State} {bytes fifo wire queued back : List Byte} {ts : List Turn} {rest : List Item}

/-- The phase that is due leaves all this to its operation. -/
theorem Eager.step_eq {c : Call} (e : Eager a bytes fifo wire queued back (.master :: ts) s) (due : s.Due c rest) :
    ∃ v, step s = exec c.instr v ∧ v.InPhase c ∧ v.baseOk = true ∧ v.program = rest ∧
      Eager a bytes fifo wire queued back ts v := by
  obtain ⟨base, hstep, phase, hb, good⟩ := due.step_eq e.ready.base e.schedule_eq
  exact ⟨_, hstep, phase, hb, rfl, { e with schedule_eq := rfl, ready := { e.ready with base := good } }⟩

/-- With the transmit FIFO empty a send polls and finds room. -/
theorem Eager.poll_write {n : Nat} {b : Byte} {left : List Byte}
    (e : Eager a bytes [] wire queued back (.master :: ts) s) (due : s.Due (.writeBytes bytes n .POLL) rest)
    (hb : bytes.drop n = b :: left) :
    ∃ t, step s = .next t ∧ Eager a bytes [] wire queued back ts t ∧ t.Due (.writeBytes bytes n .ACT) rest := by
  obtain ⟨v, hstep, phase, good, program, ev⟩ := e.step_eq due
  have notFull : v.txff = false := by
    rw [Bool.eq_false_iff, ne_eq, State.txff_iff, ev.txFifo_eq]
    exact (Nat.ne_of_gt ev.ready.txCap_pos).symm
  have poll := exec_send_poll good phase hb rfl
  rw [notFull, if_neg Bool.false_ne_true] at poll
  exact ⟨_, hstep.trans poll, { ev with ready := { ev.ready with } }, .running rfl good program⟩

/-- The write puts its byte into the FIFO. -/
theorem Eager.act_write {n : Nat} {b : Byte} {left : List Byte}
    (e : Eager a bytes [] wire queued back (.master :: ts) s) (due : s.Due (.writeBytes bytes n .ACT) rest)
    (hb : bytes.drop n = b :: left) :
    ∃ t, step s = .next t ∧ Eager a bytes [b] wire queued back ts t ∧ t.baseOk = true ∧ t.program = rest ∧
      t.call = if n + 1 < bytes.length then some (.writeBytes bytes (n + 1) .POLL) else none := by
  obtain ⟨v, hstep, phase, good, program, ev⟩ := e.step_eq due
  have room : v.txFifo.length < v.txCap := by rw [ev.txFifo_eq]; exact ev.ready.txCap_pos
  have pushed : v.txFifo ++ [b] = [b] := by rw [ev.txFifo_eq, List.nil_append]
  exact ⟨_, hstep.trans (exec_send_act good phase hb rfl room),
    { ev with ready := { ev.ready with }, txFifo_eq := pushed }, good, program, rfl⟩

theorem step_txLoad_of_queued {b : Byte} {left : List Byte} (hs : s.schedule = .txLoad :: ts)
    (enabled : s.txLoadEnabled = true) (admitted : s.lineAdmitted = true) (queued : s.txFifo = b :: left) :
    step s = .next { s with schedule := ts, txShift := some b, txFifo := left } :=
  (step_of_scheduled_hardware hs rfl).trans
    (Iff.mpr (execTxLoad_eq_next (s := { s with schedule := ts })) (.inr ⟨enabled, admitted, b, left, queued, rfl⟩))

theorem step_txDone_of_shifting {b : Byte} (hs : s.schedule = .txDone :: ts) (shifting : s.txShift = some b) :
    step s = .next { s with schedule := ts, wireOut := s.wireOut ++ [b], txShift := none } :=
  (step_of_scheduled_hardware hs rfl).trans
    (Iff.mpr (execTxDone_eq_next (s := { s with schedule := ts })) (.inr ⟨b, shifting, rfl⟩))

theorem step_rxArrive_of_room {d : Byte} (hs : s.schedule = .rxArrive d :: ts) (enabled : s.rxEnabled = true)
    (admitted : s.lineAdmitted = true) (room : s.rxFifo.length < s.rxCap) :
    step s = .next { s with schedule := ts, rxFifo := s.rxFifo ++ [d] } :=
  (step_of_scheduled_hardware hs rfl).trans
    (Iff.mpr (execRxArrive_eq_next (s := { s with schedule := ts })) (.inr (.inr ⟨enabled, admitted, room, rfl⟩)))

/-- The byte is loaded, sent and echoed. -/
theorem run_echo {b : Byte} {n : Nat} (ready : s.LoopReady n) (room : s.rxFifo.length < s.rxCap)
    (hs : s.schedule = .txLoad :: .txDone :: .rxArrive b :: ts) (fifo : s.txFifo = [b]) (idle : s.txShift = none) :
    run 3 s = .next { s with
      schedule := ts, txFifo := [], txShift := none, wireOut := s.wireOut ++ [b], rxFifo := s.rxFifo ++ [b] } := by
  have enabled : s.txLoadEnabled = true :=
    State.txLoadEnabled_iff.mpr ⟨ready.uarten, ready.txe, idle, by rw [fifo]; exact List.cons_ne_nil b []⟩
  refine run_succ_eq_next.mpr ⟨_, step_txLoad_of_queued hs enabled ready.admitted fifo, ?_⟩
  refine run_succ_eq_next.mpr ⟨_, step_txDone_of_shifting (b := b) rfl rfl, ?_⟩
  exact run_succ_eq_next.mpr ⟨_, step_rxArrive_of_room (d := b) rfl ready.rxEnabled ready.admitted room, rfl⟩

/-- The turns of the eager schedule for one byte written. -/
def eagerRound (b : Byte) : List Turn := [.master, .master, .txLoad, .txDone, .rxArrive b]

/-- One byte goes around: it is written, loaded, sent and echoed, and the write goes on or ends. -/
theorem Eager.round {sent left : List Byte} {b : Byte}
    (e : Eager a bytes [] sent sent back (eagerRound b ++ ts) s)
    (due : s.Due (.writeBytes bytes sent.length .POLL) rest) (hb : bytes = sent ++ b :: left) :
    ∃ t, run 5 s = .next t ∧ Eager a bytes [] (sent ++ [b]) (sent ++ [b]) back ts t ∧
      (left = [] → t.call = none ∧ t.program = rest) ∧
      (left ≠ [] → t.Due (.writeBytes bytes (sent ++ [b]).length .POLL) rest) := by
  have current : bytes.drop sent.length = b :: left := by rw [hb, List.drop_left]
  have length : bytes.length = sent.length + 1 + left.length := by
    rw [hb, List.length_append, List.length_cons]
    omega
  obtain ⟨s1, poll, e1, due1⟩ := e.poll_write due current
  obtain ⟨s2, act, e2, good, program, call⟩ := e1.act_write due1 current
  have room : s2.rxFifo.length < s2.rxCap := by
    rw [e2.rxFifo_eq]
    exact Nat.lt_of_lt_of_le (by omega) e2.ready.rxCap_le
  have echo := run_echo e2.ready room e2.schedule_eq e2.txFifo_eq e2.txShift_eq
  refine ⟨_, run_succ_eq_next.mpr ⟨s1, poll, run_succ_eq_next.mpr ⟨s2, act, echo⟩⟩, ?_, fun last => ?_, fun more => ?_⟩
  · exact { e2 with
      ready := { e2.ready with }
      schedule_eq := rfl
      txFifo_eq := rfl
      txShift_eq := rfl
      wireOut_eq := by rw [e2.wireOut_eq, List.append_assoc]
      rxFifo_eq := by rw [e2.rxFifo_eq] }
  · rw [if_neg (by rw [length, last]; exact Nat.lt_irrefl _)] at call
    exact ⟨call, program⟩
  · have more := List.length_pos_iff.mpr more
    rw [if_pos (by omega)] at call
    rw [List.length_append]
    exact .running call good program

/-- All bytes go around, one after the other. -/
theorem Eager.writes {sent left : List Byte} (e : Eager a bytes [] sent sent back (left.flatMap eagerRound ++ ts) s)
    (due : s.Due (.writeBytes bytes sent.length .POLL) rest) (hb : bytes = sent ++ left) (more : left ≠ []) :
    ∃ t, run (5 * left.length) s = .next t ∧ Eager a bytes [] bytes bytes back ts t ∧ t.call = none ∧
      t.program = rest := by
  induction left generalizing sent s with
  | nil => exact absurd rfl more
  | cons b left ih =>
    rw [List.flatMap_cons, List.append_assoc] at e
    obtain ⟨u, round, eu, last, goes_on⟩ := e.round due hb
    have hb : bytes = (sent ++ [b]) ++ left := by rw [hb, List.append_assoc]; rfl
    rw [List.length_cons, Nat.mul_succ, Nat.add_comm]
    by_cases last_byte : left = []
    · subst last_byte
      rw [List.append_nil] at hb
      obtain ⟨idle, program⟩ := last rfl
      exact ⟨u, round, hb ▸ eu, idle, program⟩
    · obtain ⟨t, writes, et, ended⟩ := ih eu (goes_on last_byte) hb last_byte
      exact ⟨t, run_add_eq_next.mpr ⟨u, round, writes⟩, et, ended⟩

/-- Two turns of the bus master read the oldest byte: the poll finds it. -/
theorem Eager.read {d : Byte} (e : Eager a bytes [] wire (d :: queued) back (.master :: .master :: ts) s)
    (idle : s.call = none) (head : s.program = ⟨none, .call .readByte⟩ :: rest) :
    ∃ t, run 2 s = .next t ∧ Eager a bytes [] wire queued (back ++ [d]) ts t ∧ t.call = none ∧ t.program = rest := by
  obtain ⟨v, poll_step, phase, good, program, ev⟩ := e.step_eq (.issued .readByte idle head rfl)
  have notEmpty : v.rxfe = false := by
    rw [Bool.eq_false_iff, ne_eq, State.rxfe_iff, ev.rxFifo_eq]
    exact nofun
  have poll := (exec_readByte_of_inPhase phase).trans (receivePhase_poll good)
  rw [notEmpty, if_neg Bool.false_ne_true] at poll
  have eu : Eager a bytes [] wire (d :: queued) back (.master :: ts)
      (v.readFr.setCall (some (.readByte .ACT))) := { ev with ready := { ev.ready with } }
  obtain ⟨w, act_step, phase, good, program, ew⟩ := eu.step_eq (.running rfl good program)
  have act := (exec_readByte_of_inPhase phase).trans (receivePhase_act good)
  refine ⟨_, run_succ_eq_next.mpr ⟨_, poll_step.trans poll, run_succ_eq_next.mpr ⟨_, act_step.trans act, rfl⟩⟩, ?_, rfl,
    program⟩
  exact { ew with
    ready := { ew.ready with }
    rxFifo_eq := congrArg List.tail ew.rxFifo_eq
    returned_eq := by
      show w.returned ++ [w.dataReg.data] = _
      rw [State.dataReg_cons ew.rxFifo_eq, ew.returned_eq, List.append_assoc] }

/-- All bytes are read, one after the other. -/
theorem Eager.reads {queued back : List Byte}
    (e : Eager a bytes [] wire queued back (List.replicate (2 * queued.length) .master ++ ts) s)
    (idle : s.call = none) (program : s.program = reads queued.length ++ rest) :
    ∃ t, run (2 * queued.length) s = .next t ∧ Eager a bytes [] wire [] (back ++ queued) ts t ∧ t.call = none ∧
      t.program = rest := by
  induction queued generalizing back s with
  | nil => exact ⟨s, rfl, (List.append_nil back).symm ▸ e, idle, program⟩
  | cons d queued ih =>
    obtain ⟨u, read, eu, idle, program⟩ := e.read idle program
    obtain ⟨t, reads, et, ended⟩ := ih eu idle program
    rw [List.append_assoc] at et
    rw [List.length_cons, Nat.mul_succ, Nat.add_comm]
    exact ⟨t, run_add_eq_next.mpr ⟨u, read, reads⟩, et, ended⟩

end

/-- Settles O47: under any schedule with such echoes what was returned is a beginning of what was written; under the
eager one every turn does its part. -/
theorem loopbackRoundTrip : Obligations.LoopbackRoundTrip := by
  unfold Obligations.LoopbackRoundTrip
  intro s bytes rest ts later inv hc hb admitted uarten txe rxe txEmpty unloaded rxEmpty fits program
  have ready : s.LoopReady bytes.length :=
    ⟨uarten, txe, State.rxEnabled_iff.mpr ⟨uarten, rxe⟩, admitted, State.txCap_pos inv.txDepth_pos, fits, hb⟩
  have due (more : bytes ≠ []) : s.Due (.writeBytes bytes 0 .POLL) (reads bytes.length ++ rest) :=
    .issued (.writeBytes bytes) hc program rfl
  have nothing_sent : sentStream s = s.wireOut := by simp [sentStream, txEmpty, unloaded]
  refine ⟨fun noRest hs quiet echo => ?_, fun more hs => ?_⟩
  · subst noRest
    rw [List.append_nil] at due program
    have start : Looping s bytes [] (ts ++ later) s :=
      ⟨inv, hs, ready, .write 0 .POLL (.issued (.writeBytes bytes) hc program rfl) (by rw [nothing_sent]; rfl) rfl,
        by rw [receivedStream, rxEmpty], List.prefix_rfl, by rw [List.append_nil]⟩
    obtain ⟨t, hrun, l⟩ := start.run_answers quiet echo le_rfl
    obtain ⟨back, returned, beginning⟩ := l.returned_eq
    refine ⟨t, hrun, ⟨back.length, by rw [returned, ← List.prefix_iff_eq_take.mp beginning]⟩, fun idle ended => ?_⟩
    have count := l.stage.count_of_end idle ended
    rw [returned, List.length_append] at count
    rw [returned, beginning.eq_of_length (by omega)]
  · have start : Eager s bytes [] [] [] []
        (bytes.flatMap eagerRound ++ (List.replicate (2 * bytes.length) .master ++ ts)) s :=
      ⟨ready, hs.trans (List.append_assoc _ _ _), txEmpty, unloaded, (List.append_nil _).symm, rxEmpty,
        (List.append_nil _).symm⟩
    obtain ⟨u, writes, eu, idle, program⟩ := start.writes (sent := []) (due more) rfl more
    obtain ⟨t, reads, e, idle, program⟩ := eu.reads idle program
    have turns : 7 * bytes.length = 5 * bytes.length + 2 * bytes.length := by omega
    rw [turns]
    exact ⟨t, run_add_eq_next.mpr ⟨u, writes, reads⟩, e.returned_eq, e.wireOut_eq, e.txFifo_eq, e.txShift_eq,
      e.rxFifo_eq, idle, program, e.schedule_eq⟩

end Sys2Proof.Machine
end
